-- ==== Sys2Proof/Word.lean ====
section
/-! DEFINITION. The widths of the block's values (00_scope R7, R9): bytes, streams, the 16-bit length field,
the 32-bit operation word and the 32-bit timeout operand. -/

namespace Sys2Proof

/-- A byte: an unsigned 8-bit value (R7 `BYTE`, R9). -/
abbrev Byte := BitVec 8

/-- A stream: a finite sequence of bytes, index 0 first on the wire (R9, R51). -/
abbrev Bytes := List Byte

/-- The 16-bit length field (R7 `LEN_BITS`). -/
abbrev Size := BitVec 16

/-- The operation word `OPW` (30_encoding R78). -/
abbrev OpWord := BitVec 32

/-- The timeout operand in milliseconds, `TIMEOUT_BITS` = 32 wide (R8, R79, D9). -/
abbrev Millis := BitVec 32

end Sys2Proof
end

