-- ==== Sys2Proof/Syntax.lean ====
section
/-! DEFINITION. The operations of 30_encoding R81, one constructor per row of the opcode table, with the operands
each takes (R79), and the request a requester puts on its port: an operation word and its two side operands. -/

namespace Sys2Proof

/-- An operation with its operands (30_encoding R79, R81). The stream argument is `DATA_IN`. -/
inductive Instr where
  /-- `MSG_BUILD` (40_framer R105). -/
  | msgBuild (cmd : Byte) (payload : Bytes)
  /-- `MSG_PARSE` (40_framer R106). -/
  | msgParse (stream : Bytes)
  /-- `PKG_BUILD` (40_framer R107). -/
  | pkgBuild (addr cmd : Byte) (payload : Bytes)
  /-- `PKG_PARSE` (40_framer R108). -/
  | pkgParse (stream : Bytes)
  /-- `CHK_CALC` (40_framer R109). -/
  | chkCalc (stream : Bytes)
  /-- `CHK_VERIFY` (40_framer R110). -/
  | chkVerify (stream : Bytes)
  /-- `CH_REQUEST` (41_channel R140). -/
  | chRequest (chan cmd : Byte) (payload : Bytes) (timeout : Millis)
  deriving DecidableEq, Repr

/-- What a requester sends: the operation word (R78) and the side operands that travel with it (R79). -/
structure Request where
  opw : OpWord
  dataIn : Bytes
  timeoutMs : Millis
  deriving DecidableEq, Repr

end Sys2Proof
end

