-- ==== Sys2Proof/WellFormed.lean ====
section
/-! DEFINITION. Which operations a block with `numChannels` channels has (30_encoding R80, R83). -/

namespace Sys2Proof

/-- Well-formed: a `CH_REQUEST` names one of the block's channels (R80). Every other operation is well-formed
with any operands: a too long payload or an address above 31 is no encoding verdict (R86). -/
def Instr.wellFormed (numChannels : Nat) : Instr → Bool
  | .msgBuild _ _ => true
  | .msgParse _ => true
  | .pkgBuild _ _ _ => true
  | .pkgParse _ => true
  | .chkCalc _ => true
  | .chkVerify _ => true
  | .chRequest chan _ _ _ => decide (chan.toNat < numChannels)

end Sys2Proof
end

