-- ==== Sys2Proof/Decode.lean ====
section
/-! DEFINITION. The operation word (30_encoding §2): its fields, the decoder of R86 (total on every word, rejecting
by name) and the encoder written from the same table (R81, R82). -/

namespace Sys2Proof

/-- `OPW[7:0]`, the operation code (R78). -/
def opwOp (w : OpWord) : Byte := w.extractLsb' 0 8

/-- `OPW[15:8]`, the BSMP slave address (R78). -/
def opwAddr (w : OpWord) : Byte := w.extractLsb' 8 8

/-- `OPW[23:16]`, the command byte (R78). -/
def opwCmd (w : OpWord) : Byte := w.extractLsb' 16 8

/-- `OPW[31:24]`, the channel index (R78). -/
def opwChan (w : OpWord) : Byte := w.extractLsb' 24 8

/-- Why a word is illegal (R83): one reason per clause of the rule. -/
inductive DecodeError where
  /-- `OP` is not in the operation map of R81. -/
  | unknownOp
  /-- A must-be-zero field of R82 is non-zero. -/
  | fieldNotZero
  /-- `OP = CH_REQUEST` and `CHAN ≥ NUM_CHANNELS`. -/
  | noSuchChannel
  deriving DecidableEq, Repr

/-- Decode the fields of a word (R86); `data` and `tmo` are the side operands of R79, and a timeout is ignored
by every operation but `CH_REQUEST`. -/
def decodeFields (numChannels : Nat) (op addr cmd chan : Byte) (data : Bytes) (tmo : Millis) :
    Except DecodeError Instr :=
  match op.toNat with
  | 0x01 => if addr = 0 ∧ chan = 0 then .ok (.msgBuild cmd data) else .error .fieldNotZero
  | 0x02 => if addr = 0 ∧ cmd = 0 ∧ chan = 0 then .ok (.msgParse data) else .error .fieldNotZero
  | 0x03 => if chan = 0 then .ok (.pkgBuild addr cmd data) else .error .fieldNotZero
  | 0x04 => if addr = 0 ∧ cmd = 0 ∧ chan = 0 then .ok (.pkgParse data) else .error .fieldNotZero
  | 0x05 => if addr = 0 ∧ cmd = 0 ∧ chan = 0 then .ok (.chkCalc data) else .error .fieldNotZero
  | 0x06 => if addr = 0 ∧ cmd = 0 ∧ chan = 0 then .ok (.chkVerify data) else .error .fieldNotZero
  | 0x10 =>
    if addr = 0 then
      if chan.toNat < numChannels then .ok (.chRequest chan cmd data tmo) else .error .noSuchChannel
    else .error .fieldNotZero
  | _ => .error .unknownOp

/-- The decoder with its reason for a refusal (R83, R86). -/
def decodeRequest (numChannels : Nat) (q : Request) : Except DecodeError Instr :=
  decodeFields numChannels (opwOp q.opw) (opwAddr q.opw) (opwCmd q.opw) (opwChan q.opw) q.dataIn q.timeoutMs

/-- The decoder: `none` is an illegal word (R83, R86). -/
def decode (numChannels : Nat) (q : Request) : Option Instr :=
  (decodeRequest numChannels q).toOption

/-- A word from its four fields (R78). -/
def packWord (op addr cmd chan : Byte) : OpWord := chan ++ cmd ++ addr ++ op

/-- The operation word of an operation: its `OP`, the fields it uses, and zero in the others (R81, R82). -/
def encodeWord : Instr → OpWord
  | .msgBuild cmd _ => packWord 0x01 0 cmd 0
  | .msgParse _ => packWord 0x02 0 0 0
  | .pkgBuild addr cmd _ => packWord 0x03 addr cmd 0
  | .pkgParse _ => packWord 0x04 0 0 0
  | .chkCalc _ => packWord 0x05 0 0 0
  | .chkVerify _ => packWord 0x06 0 0 0
  | .chRequest chan cmd _ _ => packWord 0x10 0 cmd chan

/-- `DATA_IN` of an operation (R79, R81). -/
def encodeData : Instr → Bytes
  | .msgBuild _ payload => payload
  | .msgParse stream => stream
  | .pkgBuild _ _ payload => payload
  | .pkgParse stream => stream
  | .chkCalc stream => stream
  | .chkVerify stream => stream
  | .chRequest _ _ payload _ => payload

/-- `TIMEOUT_MS` of an operation (R79): zero where it is ignored. -/
def encodeTimeout : Instr → Millis
  | .msgBuild _ _ => 0
  | .msgParse _ => 0
  | .pkgBuild _ _ _ => 0
  | .pkgParse _ => 0
  | .chkCalc _ => 0
  | .chkVerify _ => 0
  | .chRequest _ _ _ timeout => timeout

/-- The encoder: the request that carries an operation (R78, R79). -/
def encode (i : Instr) : Request where
  opw := encodeWord i
  dataIn := encodeData i
  timeoutMs := encodeTimeout i

/-- The request of the opcode table's words: `nbits` bits of a number, bit 0 first, with every side operand empty
(log entry 17). -/
def tableRequest (nbits w : Nat) : Request where
  opw := BitVec.ofNat 32 (w % 2 ^ nbits)
  dataIn := []
  timeoutMs := 0

/-- The operation the decoder reads from a word numbered as spec/opcode_table.json numbers it, on a block with all
the 256 channels the CHAN field can name (R80; log entry 17). -/
def decodeTableWord (nbits w : Nat) : Option Instr :=
  decode 256 (tableRequest nbits w)

end Sys2Proof
end

