-- ==== Sys2Proof/Config.lean ====
section
/-! DEFINITION. The constants the source fixes (00_scope R7) and the configuration registers (00_scope R8,
10_state R27). A configuration is plain data inside State: every statement quantifies over it. -/

namespace Sys2Proof

/-- `MAX_PAYLOAD` (R7): the longest payload a built message carries. -/
def maxPayload : Nat := 65535

/-- `MSG_HDR` (R7): one command byte and two length bytes. -/
def msgHdr : Nat := 3

/-- `MIN_PACKAGE` (R7): the shortest package. -/
def minPackage : Nat := 5

/-- `MAX_ADDRESS` (R7, R33): the highest BSMP slave address a build accepts. -/
def maxAddress : Nat := 31

/-- One channel: the slave address `ADDRESS[c]` and the line `LINE[c]` (10_state R27). -/
structure Channel where
  address : Byte
  line : Nat
  deriving DecidableEq, Repr

/-- The configuration registers (10_state R27) and the named parameters of 00_scope R8. `NUM_CHANNELS` is the
length of `channels` and `NUM_LINES` the length of `lockMap`; `NUM_REQUESTERS` is the number of requester
records in State. `UART_*` is read by no rule (R8, 92_eei_decisions) and is not held. -/
structure Config where
  /-- `ADDRESS[c]` and `LINE[c]`, one record per channel. -/
  channels : List Channel
  /-- `LOCK_OF`: entry `l` is the lock domain of line `l`. -/
  lockMap : List Nat
  /-- `STRICT_LENGTH` (R8, D6). -/
  strictLength : Bool
  /-- `RX_CAPACITY` (R8, D24): `none` is the decided default, unbounded. -/
  rxCapacity : Option Nat
  /-- Lines that another, separately configured block instance drives (the third case of R28; R193). -/
  foreignLines : List Nat
  deriving DecidableEq, Repr

/-- The configuration the model launches with at `State.reset`. DESIGN CHOICE (log entry 3; unsafe): the spec gives
no values. One channel for each legal slave address (R33), channel `c` at address `c`, all of them on line 0; one lock
per line; the decided defaults `STRICT_LENGTH = false` and `RX_CAPACITY` unbounded (R8). -/
def resetConfig : Config where
  channels := (List.range 32).map fun c => { address := BitVec.ofNat 8 c, line := 0 }
  lockMap := [0]
  strictLength := false
  rxCapacity := none
  foreignLines := []

end Sys2Proof
end

