-- ==== Sys2Proof/Machine/State.lean ====
section
/-! DEFINITION. The state of the block (10_state) as plain data: one record per requester (its phase and its result
register), the lock domains, the event history, the two marks, the configuration registers, and beside them the
model's own fields for the world outside the block (turns, ports). -/

namespace Sys2Proof.Machine

/-- The status codes of 60_exceptions R181, by name; `Status.code` gives their numbers. The reserved codes are
never written, so they have no constructor. -/
inductive Status where
  | ok
  | payloadTooLong
  | messageTooShort
  | packageTooShort
  | checksumError
  | lengthMismatch
  | emptyResponse
  | transportTimeout
  | transportIoError
  | illegalOperation
  deriving DecidableEq, Repr

/-- The result register `RESULT[r]` (10_state R24). `none` is the spec's own state *unwritten* (R24, R26, R35), not
a missing reset value. -/
structure Result where
  status : Option Status
  bytes : Option Bytes
  addr : Option Byte
  cmd : Option Byte
  size : Option Size
  payload : Option Bytes
  checksum : Option Byte
  valid : Option Bool
  deriving DecidableEq, Repr

/-- Every field unwritten: the reset value of a result register (R35). -/
def Result.unwritten : Result where
  status := none
  bytes := none
  addr := none
  cmd := none
  size := none
  payload := none
  checksum := none
  valid := none

/-- The fields of a result register, as a requester names them when it reads (R24, R26). -/
inductive ResultField where
  | status | bytes | addr | cmd | size | payload | checksum | valid
  deriving DecidableEq, Repr

/-- The configuration registers, as a requester names them when it reads (10_state R21, R27). -/
inductive ConfigRegister where
  | address (c : Nat)
  | line (c : Nat)
  | lockOf (line : Nat)
  | strictLength
  deriving DecidableEq, Repr

/-- What a read of a register delivers; a status is read as its 8-bit code (R24, R181), a line or a lock domain as its
number. -/
inductive FieldValue where
  | byte (b : Byte)
  | stream (s : Bytes)
  | size (n : Size)
  | bool (b : Bool)
  | number (n : Nat)
  deriving DecidableEq, Repr

/-- The sequencer phase `PHASE[r]` (10_state R23); `c` is a channel index. -/
inductive Phase where
  /-- No operation outstanding. -/
  | idle
  /-- A `CH_REQUEST` waits for its line's lock. -/
  | acq (c : Nat) (cmd : Byte) (payload : Bytes) (tmo : Millis)
  /-- The lock is held and the framed package is to be written. -/
  | wr (c : Nat) (pkg : Bytes) (tmo : Millis)
  /-- The lock is held, the write succeeded, and the response is to be read. -/
  | rd (c : Nat) (tmo : Millis)
  deriving DecidableEq, Repr

/-- The transport's answers to `TxWrite` (00_scope R11). -/
inductive TxOutcome where
  | ok | timeout | ioError
  deriving DecidableEq, Repr

/-- The transport's answers to `RxRead` (00_scope R11). -/
inductive RxAnswer where
  | bytes (s : Bytes)
  | timeout
  | ioError
  deriving DecidableEq, Repr

/-- The events of the history (10_state R30). `op` carries the operation word, as R83 and R100 write it. -/
inductive Event where
  | acquire (r k : Nat)
  | tx (r line : Nat) (pkg : Bytes) (w : TxOutcome)
  | rx (r line : Nat) (a : RxAnswer)
  | release (r k : Nat)
  | op (r : Nat) (opw : OpWord) (result : Result)
  deriving DecidableEq, Repr

/-- What a requester does at its port (60_exceptions R195): send an operation, read a field of its result, or read a
configuration register, the two kinds of register it sees (10_state R21). -/
inductive PortAction where
  | issue (q : Request)
  | read (f : ResultField)
  | readConfig (x : ConfigRegister)
  deriving DecidableEq, Repr

/-- One requester: its phase and its result register (10_state R21, R23, R24), and two fields of the world outside
the block (log entry 2): `port`, what it will do next, in program order (R20, R64), and `lastRead`, the value its
port last delivered. -/
structure Requester where
  phase : Phase
  result : Result
  port : List PortAction
  lastRead : Option FieldValue
  deriving DecidableEq, Repr

/-- A requester after reset (R35): idle, nothing written. -/
def Requester.reset : Requester where
  phase := .idle
  result := Result.unwritten
  port := []
  lastRead := none

/-- One turn of the schedule, the world's choice (log entry 1): which requester may step next (R20, R151), and the
answer the transport gives should that step call `TxWrite` or `RxRead` (R11, R148). No rule constrains it. -/
structure Turn where
  requester : Nat
  tx : TxOutcome
  rx : RxAnswer
  deriving DecidableEq, Repr

/-- Why the refusal mark is set (00_scope R11, 60_exceptions R184). -/
inductive RefusalReason where
  /-- `ADDRESS_OUT_OF_RANGE`: `PKG_BUILD` with `ADDR > 31` (40_framer R107). -/
  | addressOutOfRange
  /-- A refused configuration (10_state R28). -/
  | configuration
  /-- A response longer than a set `RX_CAPACITY` (92_eei_decisions D24). -/
  | responseTooLong
  deriving DecidableEq, Repr

/-- Faults that stop a step. None can arise from a state the block reaches; each one guards `exec` or a phase step
on states outside the rules' premises. (The spec's own fault, reading an unwritten field, is the fault mark.) -/
inductive Fault where
  /-- Raised by `exec` when `State.current` names no requester: no rule speaks of it. Safe: the model stops. -/
  | noSuchRequester
  /-- Raised by `exec` when the current requester has an operation outstanding: such traffic has no move (R20,
  D12). Safe: the model stops. -/
  | requesterBusy
  /-- Raised by a phase step when the phase names a channel the block does not have, which `CH_REQUEST`'s decoding
  rules out (R83). Safe: the model stops. -/
  | noSuchChannel
  deriving DecidableEq, Repr

/-- Refusals of a step. -/
inductive Refusal where
  /-- Answered by an arm of `exec` whose instruction has no meaning yet. Safe: the model stops. -/
  | notModelled (mnemonic : String)
  /-- Answered by `step` in a state whose refusal mark is set: no requester step follows a refusal (00_scope R11,
  60_exceptions R184). Safe: the model stops. -/
  | marked (reason : RefusalReason)
  deriving DecidableEq, Repr

/-- The state of the block. -/
structure State where
  /-- The configuration registers (10_state R27): no operation writes them. -/
  config : Config
  /-- The requesters; `NUM_REQUESTERS` is the length. -/
  requesters : List Requester
  /-- The held lock domains with their holders, domains strictly rising; an unlisted domain is `Free` (R29). -/
  locks : List (Nat × Nat)
  /-- `HIST`, oldest event first (R30). -/
  hist : List Event
  /-- The fault mark (R185, R214). -/
  faultMark : Bool
  /-- The refusal mark with its reason (R11, R184); `none` is clear. -/
  refusalMark : Option RefusalReason
  /-- Whose turn comes next: the world's choices still to come (log entry 1). -/
  turns : List Turn
  /-- The requester `r` whose step is being taken (log entry 2). -/
  current : Nat
  deriving DecidableEq, Repr

/-- The block right after reset (10_state R35, 70_reset R210), with the configuration of log entry 3: one idle
requester, all locks free, an empty history, both marks clear, and nothing asked of the block yet. -/
def State.reset : State where
  config := resetConfig
  requesters := [Requester.reset]
  locks := []
  hist := []
  faultMark := false
  refusalMark := none
  turns := []
  current := 0

end Sys2Proof.Machine
end

