-- ==== Sys2Proof/Machine/Flags.lean ====
section
/-! DEFINITION. The checksum (40_framer R101, R102; 00_scope R10), the Boolean answer `valid` it gives (10_state R25),
and the numbers of the status codes (60_exceptions R181): the only flags the block has. -/

namespace Sys2Proof.Machine

/-- `sum8(s)`: the sum of the bytes, formed on unbounded integers and reduced mod 256 once (R10, R111). -/
def sum8 (s : Bytes) : Byte := BitVec.ofNat 8 (s.map BitVec.toNat).sum

/-- `neg8(x) = (256 − x) mod 256` (R10). -/
def neg8 (x : Byte) : Byte := BitVec.ofNat 8 (256 - x.toNat)

/-- The checksum function (R101). -/
def chk (s : Bytes) : Byte := neg8 (sum8 s)

/-- The checksum check predicate (R102): the last byte is the checksum of the bytes before it; false on the empty
stream (D14). -/
def verify (p : Bytes) : Bool :=
  match p.getLast? with
  | none => false
  | some c => chk p.dropLast == c

/-- The numeric status codes (R181). -/
def Status.code : Status → Byte
  | .ok => 0x00
  | .payloadTooLong => 0x01
  | .messageTooShort => 0x02
  | .packageTooShort => 0x03
  | .checksumError => 0x04
  | .lengthMismatch => 0x05
  | .emptyResponse => 0x06
  | .transportTimeout => 0x07
  | .transportIoError => 0x08
  | .illegalOperation => 0x09

/-- DOC's framing errors (60_exceptions R182). -/
def Status.isFramingError : Status → Bool
  | .messageTooShort | .packageTooShort | .checksumError | .emptyResponse => true
  | .ok | .payloadTooLong | .lengthMismatch | .transportTimeout | .transportIoError
  | .illegalOperation => false

/-- DOC's transport errors (60_exceptions R182). -/
def Status.isTransportError : Status → Bool
  | .transportTimeout | .transportIoError => true
  | .ok | .payloadTooLong | .messageTooShort | .packageTooShort | .checksumError
  | .lengthMismatch | .emptyResponse | .illegalOperation => false

end Sys2Proof.Machine
end

