-- ==== Sys2Proof/Machine/Operands.lean ====
section
/-! DEFINITION. The wire format (30_encoding §1): the big-endian length field, serializing and parsing a Message and
a Package, and the result each parse and build gives as a pure function of its operands (40_framer R100 to R110). -/

namespace Sys2Proof.Machine

/-- `be16(n)`: two bytes, the most significant first (00_scope R10, 20_memory R50). -/
def be16 (n : Nat) : Bytes := [BitVec.ofNat 8 (n / 256), BitVec.ofNat 8 n]

/-- `unbe16(h, l) = h*256 + l` (R10, 30_encoding R73), in the 16 bits of the length field. -/
def unbe16 (h l : Byte) : Size := BitVec.ofNat 16 (h.toNat * 256 + l.toNat)

/-- `msg(cmd, payload)`: the serialized Message (40_framer R103, 30_encoding R71). -/
def msgBytes (cmd : Byte) (payload : Bytes) : Bytes := [cmd] ++ be16 payload.length ++ payload

/-- The bytes of a package before its checksum: the address and the Message (40_framer R107). -/
def pkgBody (addr cmd : Byte) (payload : Bytes) : Bytes := [addr] ++ msgBytes cmd payload

/-- The serialized Package (40_framer R107, 30_encoding R72). -/
def pkgBytes (addr cmd : Byte) (payload : Bytes) : Bytes :=
  pkgBody addr cmd payload ++ [chk (pkgBody addr cmd payload)]

/-- What parsing a Message stream gives: the triple of 40_framer R104. -/
structure ParsedMsg where
  cmd : Byte
  size : Size
  payload : Bytes
  deriving DecidableEq, Repr

/-- `parse_msg(m)` (40_framer R104): a status or a triple. The length field is compared with the payload only when
`strict` holds. -/
def parseMsg (strict : Bool) : Bytes → Except Status ParsedMsg
  | cmd :: hi :: lo :: payload =>
    if strict && (unbe16 hi lo).toNat != payload.length then .error .lengthMismatch
    else .ok { cmd := cmd, size := unbe16 hi lo, payload := payload }
  | [_, _] => .error .messageTooShort
  | [_] => .error .messageTooShort
  | [] => .error .messageTooShort

/-- A result that reports an error: `status` only (00_scope R11 `raise`, 10_state R24). -/
def Result.error (st : Status) : Result := { Result.unwritten with status := some st }

/-- A payload that no Message can carry (40_framer R105, R107; 41_channel R140). -/
def payloadTooLong (payload : Bytes) : Bool := decide (maxPayload < payload.length)

/-- The result of `MSG_BUILD` (40_framer R105). -/
def msgBuildResult (cmd : Byte) (payload : Bytes) : Result :=
  if payloadTooLong payload then Result.error .payloadTooLong
  else
    { Result.unwritten with
      status := some .ok
      bytes := some (msgBytes cmd payload)
      size := some (BitVec.ofNat 16 payload.length) }

/-- The result of `MSG_PARSE` (40_framer R106). -/
def msgParseResult (strict : Bool) (m : Bytes) : Result :=
  match parseMsg strict m with
  | .error st => Result.error st
  | .ok x =>
    { Result.unwritten with
      status := some .ok
      cmd := some x.cmd
      size := some x.size
      payload := some x.payload }

/-- The result of `PKG_BUILD` for an address it does not refuse (40_framer R107). -/
def pkgBuildResult (addr cmd : Byte) (payload : Bytes) : Result :=
  if payloadTooLong payload then Result.error .payloadTooLong
  else
    { Result.unwritten with
      status := some .ok
      bytes := some (pkgBytes addr cmd payload)
      checksum := some (chk (pkgBody addr cmd payload)) }

/-- The result of `PKG_PARSE` (40_framer R108), its checks in the rule's order. -/
def pkgParseResult (strict : Bool) (p : Bytes) : Result :=
  if p.length < minPackage then Result.error .packageTooShort
  else if !verify p then Result.error .checksumError
  else
    match parseMsg strict (p.drop 1).dropLast with
    | .error st => Result.error st
    | .ok x =>
      { Result.unwritten with
        status := some .ok
        addr := p.head?
        cmd := some x.cmd
        size := some x.size
        payload := some x.payload
        checksum := p.getLast? }

/-- The result of `CHK_CALC` (40_framer R109). -/
def chkCalcResult (s : Bytes) : Result :=
  { Result.unwritten with status := some .ok, checksum := some (chk s) }

/-- The result of `CHK_VERIFY` (40_framer R110): a failed check is no error. -/
def chkVerifyResult (p : Bytes) : Result :=
  { Result.unwritten with status := some .ok, valid := some (verify p) }

/-- `rx_result(a)`: the transport's answer as the result of a `CH_REQUEST` (41_channel R144). -/
def rxResult (strict : Bool) : RxAnswer → Result
  | .timeout => Result.error .transportTimeout
  | .ioError => Result.error .transportIoError
  | .bytes s =>
    if s.length = 0 then Result.error .emptyResponse
    else
      let y := pkgParseResult strict s
      if y.status = some .ok then
        { Result.unwritten with
          status := some .ok
          cmd := y.cmd
          size := y.size
          payload := y.payload }
      else { Result.unwritten with status := y.status }

/-- The status a failed write reports (41_channel R142); `none` for a write that succeeded. -/
def txFailure : TxOutcome → Option Status
  | .ok => none
  | .timeout => some .transportTimeout
  | .ioError => some .transportIoError

/-- What a read of a result field delivers; `none` where the field is unwritten (10_state R24, R26). -/
def readField (res : Result) : ResultField → Option FieldValue
  | .status => res.status.map fun st => .byte st.code
  | .bytes => res.bytes.map .stream
  | .addr => res.addr.map .byte
  | .cmd => res.cmd.map .byte
  | .size => res.size.map .size
  | .payload => res.payload.map .stream
  | .checksum => res.checksum.map .byte
  | .valid => res.valid.map .bool

end Sys2Proof.Machine
end

