-- ==== Sys2Proof/Machine/Ops.lean ====
section
/-! DEFINITION. The named operations over the state: the configuration's views, the lock domains, a requester's
result and phase, the history, and ending an operation, raising a status and refusing (00_scope R11, 60_exceptions
R184, R186), each written once. -/

namespace Sys2Proof.Machine

/-- `NUM_CHANNELS` (00_scope R8). -/
def numChannels (cfg : Config) : Nat := cfg.channels.length

/-- `NUM_LINES` (R8). -/
def numLines (cfg : Config) : Nat := cfg.lockMap.length

/-- `LOCK_OF(line)` (10_state R27, D10); a line the map does not list has a domain of its own, the default
(log entry 12). -/
def lockOf (cfg : Config) (line : Nat) : Nat := cfg.lockMap.getD line line

/-- What channel `c` stands for: `A = ADDRESS[c]`, `L = LINE[c]` and `k = LOCK_OF(L)` (41_channel). -/
structure Route where
  address : Byte
  line : Nat
  domain : Nat
  deriving DecidableEq, Repr

/-- The route of channel `c`, if the block has that channel. -/
def route (cfg : Config) (c : Nat) : Option Route :=
  cfg.channels[c]?.map fun ch => { address := ch.address, line := ch.line, domain := lockOf cfg ch.line }

/-- What a read of a configuration register delivers (10_state R21, R27); `none` for a channel or a line the block does
not have. -/
def readConfigRegister (cfg : Config) : ConfigRegister → Option FieldValue
  | .address c => cfg.channels[c]?.map fun ch => .byte ch.address
  | .line c => cfg.channels[c]?.map fun ch => .number ch.line
  | .lockOf l => if l < numLines cfg then some (.number (lockOf cfg l)) else none
  | .strictLength => some (.bool cfg.strictLength)

/-- The configuration's counts are in the ranges of 00_scope R8. `NUM_REQUESTERS` is no part of `Config`: it is the number
of requesters a launch is given, at least 1 by R8 (log entry 21). -/
def configInRange (cfg : Config) : Bool :=
  decide (1 ≤ numChannels cfg) && decide (numChannels cfg ≤ 256) && decide (1 ≤ numLines cfg)

/-- A refused configuration: the three cases of 10_state R28. -/
def configRefused (cfg : Config) : Bool :=
  cfg.channels.any (fun ch => decide (maxAddress < ch.address.toNat))
    || cfg.channels.any (fun ch => decide (numLines cfg ≤ ch.line))
    || cfg.channels.any (fun ch => cfg.foreignLines.contains ch.line)

/-- Launch with a configuration and `n` requesters (70_reset R210, R212): every piece of state at its reset value; a
refused configuration has no launch, its refusal mark is set (10_state R28, 60_exceptions R184). DESIGN CHOICE, log entry
21: the spec gives no outcome to counts outside the ranges of 00_scope R8 (no requester; no channel or more than 256; no
line), and the model launches them where no case of R28 holds. Safe: the model allows more block instances than the
hardware has. -/
def launch (cfg : Config) (n : Nat) : State :=
  { State.reset with
    config := cfg
    requesters := List.replicate n Requester.reset
    refusalMark := if configRefused cfg then some .configuration else none }

/-- What `LOCK[k]` holds (10_state R29). -/
inductive LockState where
  | free
  | held (r : Nat)
  deriving DecidableEq, Repr

/-- The lock of domain `k` in a lock table. -/
def lockLookup : List (Nat × Nat) → Nat → LockState
  | [], _ => .free
  | e :: rest, k => if e.1 = k then .held e.2 else lockLookup rest k

/-- `LOCK[k] <- Held(r)` on a lock table, keeping the domains strictly rising. -/
def lockInsert (k r : Nat) : List (Nat × Nat) → List (Nat × Nat)
  | [] => [(k, r)]
  | e :: rest =>
    if k < e.1 then (k, r) :: e :: rest
    else if k = e.1 then (k, r) :: rest
    else e :: lockInsert k r rest

/-- `LOCK[k] <- Free` on a lock table. -/
def lockErase (k : Nat) : List (Nat × Nat) → List (Nat × Nat)
  | [] => []
  | e :: rest => if e.1 = k then lockErase k rest else e :: lockErase k rest

/-- The canonical form of a lock table: domains strictly rising. -/
abbrev LocksWf (l : List (Nat × Nat)) : Prop := l.Pairwise fun a b => a.1 < b.1

/-- `LOCK[k]` (00_scope R11, 10_state R29). -/
def State.lock (s : State) (k : Nat) : LockState := lockLookup s.locks k

/-- `LOCK[k] <- Held(r)` for the current requester (R11). -/
def State.hold (k : Nat) (s : State) : State := { s with locks := lockInsert k s.current s.locks }

/-- `LOCK[k] <- Free` (R11). -/
def State.unlock (k : Nat) (s : State) : State := { s with locks := lockErase k s.locks }

/-- Append one event to `HIST` (10_state R30). -/
def State.record (e : Event) (s : State) : State := { s with hist := s.hist ++ [e] }

/-- Change the record of the current requester, and no other (10_state R21, 60_exceptions R192). -/
def State.updateCurrent (f : Requester → Requester) (s : State) : State :=
  { s with requesters := s.requesters.modify s.current f }

/-- `PHASE[r] <- p` for the current requester (10_state R22, R23). -/
def State.setPhase (p : Phase) (s : State) : State := s.updateCurrent fun q => { q with phase := p }

/-- The end of an operation of the current requester: `RESULT[r] <- res`, every field of it rewritten (10_state R24,
70_reset R219), and `PHASE[r] <- IDLE` (40_framer R100, 60_exceptions R186). -/
def State.complete (res : Result) (s : State) : State :=
  s.updateCurrent fun q => { q with phase := .idle, result := res }

/-- `raise st`, the block's only trap-like mechanism (00_scope R11, 60_exceptions R180, R186): `RESULT[r]` gets the
status with every data field unwritten, the requester is idle again, nothing is saved and nothing is vectored. -/
def State.raise (st : Status) (s : State) : State := s.complete (Result.error st)

/-- `refuse reason` (00_scope R11, 60_exceptions R184): the refusal mark, and nothing else. -/
def State.refuse (reason : RefusalReason) (s : State) : State := { s with refusalMark := some reason }

/-- The fault mark is set (60_exceptions R185); no operation clears it. -/
def State.markFault (s : State) : State := { s with faultMark := true }

/-- `release(r, k)` (41_channel R142): the lock is free, then the event is recorded. -/
def State.release (k : Nat) (s : State) : State := (s.unlock k).record (.release s.current k)

/-- The end of a framer operation or of an illegal word (40_framer R100, 30_encoding R83): the result is written and
`Op(r, OPW, result)` is recorded. -/
def State.completeOp (opw : OpWord) (res : Result) (s : State) : State :=
  (s.complete res).record (.op s.current opw res)

/-- An illegal operation word (30_encoding R83): `ILLEGAL_OPERATION`, one event, no other effect. -/
def State.illegal (opw : OpWord) (s : State) : State := s.completeOp opw (Result.error .illegalOperation)

/-- The record of the current requester. -/
def State.currentRequester? (s : State) : Option Requester := s.requesters[s.current]?

/-- An operation is issued only by a requester that exists and is idle (10_state R20, 40_framer R100, D12). -/
def issued (s : State) (t : State) : Host.Outcome State Fault Refusal :=
  match s.currentRequester? with
  | none => .fault .noSuchRequester
  | some q => if q.phase = .idle then .next t else .fault .requesterBusy

/-- The port of the current requester delivers a value to it (10_state R21). -/
def State.deliver (v : FieldValue) (s : State) : State := s.updateCurrent fun q => { q with lastRead := some v }

/-- The current requester's port moves past its first action. -/
def State.popPort (s : State) : State := s.updateCurrent fun q => { q with port := q.port.tail }

/-- A turn begins: its requester is the current one. -/
def State.beginTurn (t : Turn) (rest : List Turn) (s : State) : State :=
  { s with turns := rest, current := t.requester }

end Sys2Proof.Machine
end

