-- ==== Sys2Proof/Machine/Channel.lean ====
section
/-! DEFINITION. The channel request sequencer (41_channel): the issue step of `CH_REQUEST` (R140), which is its
meaning, and the three later phases, one atomic step of its requester each (R141 to R143). -/

namespace Sys2Proof.Machine

/-- `CH_REQUEST`, issue step (41_channel R140): a channel the block does not have makes the word illegal
(30_encoding R80, R83; the decoder has already seen to that for every word a port sends); the payload is checked
before any lock is taken (D21); then the request waits for its line's lock. It is no framer operation, so only an
illegal word gets an event here (log entry 9). -/
def execChRequest (chan cmd : Byte) (payload : Bytes) (timeout : Millis) (s : State) :
    Host.Outcome State Fault Refusal :=
  if numChannels s.config ≤ chan.toNat then
    issued s (s.illegal (encodeWord (.chRequest chan cmd payload timeout)))
  else if payloadTooLong payload then issued s (s.raise .payloadTooLong)
  else issued s (s.setPhase (.acq chan.toNat cmd payload timeout))

/-- Acquire (41_channel R141): enabled only when the lock is free; taking it, recording it, framing the package and
changing the phase are one step. While the lock is held the requester has no step and waits. -/
def acquireStep (c : Nat) (cmd : Byte) (payload : Bytes) (tmo : Millis) (s : State) :
    Host.Outcome State Fault Refusal :=
  match route s.config c with
  | none => .fault .noSuchChannel
  | some rt =>
    if s.lock rt.domain = .free then
      .next (((s.hold rt.domain).record (.acquire s.current rt.domain)).setPhase
        (.wr c (pkgBytes rt.address cmd payload) tmo))
    else .next s

/-- Write (41_channel R142) with the transport's answer `w`: a failed write skips the read, releases the lock and
ends the request with the transport's error. -/
def writeStep (c : Nat) (pkg : Bytes) (tmo : Millis) (w : TxOutcome) (s : State) :
    Host.Outcome State Fault Refusal :=
  match route s.config c with
  | none => .fault .noSuchChannel
  | some rt =>
    match txFailure w with
    | none => .next ((s.record (.tx s.current rt.line pkg w)).setPhase (.rd c tmo))
    | some st => .next (((s.record (.tx s.current rt.line pkg w)).release rt.domain).raise st)

/-- Whether the receive path can hold an answer (00_scope R8 `RX_CAPACITY`, D24): always, by the decided default. -/
def rxFits (capacity : Option Nat) : RxAnswer → Bool
  | .bytes s =>
    match capacity with
    | none => true
    | some n => decide (s.length ≤ n)
  | .timeout => true
  | .ioError => true

/-- Read, parse and release (41_channel R143) with the transport's answer `a`. An answer longer than a set
`RX_CAPACITY` is refused (D24; log entry 11). -/
def readStep (c : Nat) (a : RxAnswer) (s : State) : Host.Outcome State Fault Refusal :=
  match route s.config c with
  | none => .fault .noSuchChannel
  | some rt =>
    if rxFits s.config.rxCapacity a then
      .next (((s.record (.rx s.current rt.line a)).release rt.domain).complete
        (rxResult s.config.strictLength a))
    else .next (s.refuse .responseTooLong)

end Sys2Proof.Machine
end

