-- ==== Sys2Proof/Machine/Framer.lean ====
section
/-! DEFINITION. The meanings of the framer operations (40_framer): each runs in one atomic step of the current
requester, writes its result register and records one event (R100), and reads nothing but its operands and
`STRICT_LENGTH` (10_state R31). -/

namespace Sys2Proof.Machine

/-- One framer operation `i` with result `res` (40_framer R100). -/
def framerOp (i : Instr) (res : Result) (s : State) : Host.Outcome State Fault Refusal :=
  issued s (s.completeOp (encodeWord i) res)

/-- `MSG_BUILD` (40_framer R105). -/
def execMsgBuild (cmd : Byte) (payload : Bytes) (s : State) : Host.Outcome State Fault Refusal :=
  framerOp (.msgBuild cmd payload) (msgBuildResult cmd payload) s

/-- `MSG_PARSE` (40_framer R106). -/
def execMsgParse (stream : Bytes) (s : State) : Host.Outcome State Fault Refusal :=
  framerOp (.msgParse stream) (msgParseResult s.config.strictLength stream) s

/-- `PKG_BUILD` (40_framer R107): an address above 31 is refused before the payload is looked at (60_exceptions
R183); the refusal is a mark of the state, not a result (R184). -/
def execPkgBuild (addr cmd : Byte) (payload : Bytes) (s : State) : Host.Outcome State Fault Refusal :=
  if maxAddress < addr.toNat then issued s (s.refuse .addressOutOfRange)
  else framerOp (.pkgBuild addr cmd payload) (pkgBuildResult addr cmd payload) s

/-- `PKG_PARSE` (40_framer R108). -/
def execPkgParse (stream : Bytes) (s : State) : Host.Outcome State Fault Refusal :=
  framerOp (.pkgParse stream) (pkgParseResult s.config.strictLength stream) s

/-- `CHK_CALC` (40_framer R109). -/
def execChkCalc (stream : Bytes) (s : State) : Host.Outcome State Fault Refusal :=
  framerOp (.chkCalc stream) (chkCalcResult stream) s

/-- `CHK_VERIFY` (40_framer R110). -/
def execChkVerify (stream : Bytes) (s : State) : Host.Outcome State Fault Refusal :=
  framerOp (.chkVerify stream) (chkVerifyResult stream) s

end Sys2Proof.Machine
end

