-- ==== Sys2Proof/Machine/Dispatch.lean ====
section
/-! DEFINITION. The dispatch: one arm per constructor of Instr. `exec i s` is the current requester's step that issues
the operation `i`. -/

namespace Sys2Proof.Machine

/-- The step of the current requester that issues `i` (30_encoding R81). -/
def exec (i : Instr) (s : State) : Host.Outcome State Fault Refusal :=
  match i with
  | .msgBuild cmd payload => Sys2Proof.Machine.execMsgBuild cmd payload s
  | .msgParse stream => Sys2Proof.Machine.execMsgParse stream s
  | .pkgBuild addr cmd payload => Sys2Proof.Machine.execPkgBuild addr cmd payload s
  | .pkgParse stream => Sys2Proof.Machine.execPkgParse stream s
  | .chkCalc stream => Sys2Proof.Machine.execChkCalc stream s
  | .chkVerify stream => Sys2Proof.Machine.execChkVerify stream s
  | .chRequest chan cmd payload timeout => Sys2Proof.Machine.execChRequest chan cmd payload timeout s

end Sys2Proof.Machine
end

