-- ==== Sys2Proof/Machine/Port.lean ====
section
/-! DEFINITION. The requester port (60_exceptions R195) and a requester's turn: an idle requester does the next thing
its port holds, sending an operation or reading a register; a busy one takes the next phase of its `CH_REQUEST`. -/

namespace Sys2Proof.Machine

/-- The current requester sends a request: it is decoded (30_encoding R86) and issued; an illegal word completes in
this one step (R83). -/
def issueStep (q : Request) (s : State) : Host.Outcome State Fault Refusal :=
  match decode (numChannels s.config) q with
  | some i => exec i s
  | none => .next (s.illegal q.opw)

/-- The current requester, whose result is `res`, reads a field of it (10_state R21, R26): a written field is
delivered; an unwritten one sets the fault mark, and no value is given (60_exceptions R185). -/
def readStepPort (res : Result) (f : ResultField) (s : State) : State :=
  match readField res f with
  | some v => s.deliver v
  | none => s.markFault

/-- The current requester reads a configuration register (10_state R21, R27). A channel or a line the block does not have
has no register: nothing is delivered and nothing happens (log entry 23). -/
def readConfigPort (x : ConfigRegister) (s : State) : State :=
  match readConfigRegister s.config x with
  | some v => s.deliver v
  | none => s

/-- An idle requester `q` does the next thing its port holds; with nothing to do it has no step (10_state R20). -/
def portStep (q : Requester) (s : State) : Host.Outcome State Fault Refusal :=
  match q.port with
  | [] => .next s
  | .issue rq :: _ => issueStep rq s.popPort
  | .read f :: _ => .next (readStepPort q.result f s.popPort)
  | .readConfig x :: _ => .next (readConfigPort x s.popPort)

/-- The turn `t` of requester `q`, by its phase (10_state R23, 41_channel R140 to R143). -/
def requesterStep (t : Turn) (q : Requester) (s : State) : Host.Outcome State Fault Refusal :=
  match q.phase with
  | .idle => portStep q s
  | .acq c cmd payload tmo => acquireStep c cmd payload tmo s
  | .wr c pkg tmo => writeStep c pkg tmo t.tx s
  | .rd c _ => readStep c t.rx s

/-- One turn: a turn given to a port index that no requester has is no step of the block (10_state R20). -/
def turnStep (t : Turn) (s : State) : Host.Outcome State Fault Refusal :=
  match s.currentRequester? with
  | none => .next s
  | some q => requesterStep t q s

end Sys2Proof.Machine
end

