-- ==== Sys2Proof/Machine/Step.lean ====
section
/-! DEFINITION. One step of the block: nothing follows a refusal (00_scope R11); otherwise the next turn of the
schedule is taken, and with no turn to take the block waits (70_reset R210). -/

namespace Sys2Proof.Machine

/-- One step (00_scope R3, 10_state R20). -/
def step (s : State) : Host.Outcome State Fault Refusal :=
  match s.refusalMark with
  | some reason => .refused (.marked reason)
  | none =>
    match s.turns with
    | [] => .next s
    | t :: rest => turnStep t (s.beginTurn t rest)

/-- The port index of the first idle requester (NUM_REQUESTERS where none is idle, which names no requester). -/
def State.firstIdle (s : State) : Nat := s.requesters.findIdx fun q => decide (q.phase = .idle)

/-- `s` with the operation of a table word as the next thing the block does: it is put first on the port of the
first idle requester, whose turn comes next, and that is all (log entry 4). The transport's answers in that turn
are not used, since no issue step calls the transport. -/
def State.withFetchWord (s : State) (nbits w : Nat) : State :=
  { s with
    requesters := s.requesters.modify s.firstIdle fun q =>
      { q with port := .issue (tableRequest nbits w) :: q.port }
    turns := { requester := s.firstIdle, tx := .ok, rx := .timeout } :: s.turns }

end Sys2Proof.Machine
end

