-- ==== Sys2Proof/Safety.lean ====
section
/-! DEFINITION. What counts as a safe run, in the terms the statements use: when a requester has a step, when a run is
over (70_reset R214), the invariant of locks and phases (10_state R29), the order of events in the history
(20_memory R57, R58), and what the step of one operation changes. -/

namespace Sys2Proof.Machine

/-- The channel of a phase that holds its line's lock: `WR` and `RD` (10_state R23, R29). -/
def Phase.holding? : Phase → Option Nat
  | .idle => none
  | .acq _ _ _ _ => none
  | .wr c _ _ => some c
  | .rd c _ => some c

/-- The lock domain a phase holds: `LOCK_OF(LINE[c])` in `WR(c, ...)` and `RD(c, ...)` (10_state R29). -/
def Phase.heldDomain? (cfg : Config) (p : Phase) : Option Nat :=
  p.holding?.bind fun c => (route cfg c).map Route.domain

/-- A phase the block can be in (10_state R23): its channel exists, a waiting payload fits a Message, and a package to
be written is one the framer builds for the channel's address (41_channel R141). -/
def Phase.Legal (cfg : Config) : Phase → Prop
  | .idle => True
  | .acq c _ payload _ => c < numChannels cfg ∧ payload.length ≤ maxPayload
  | .wr c pkg _ =>
    ∃ rt cmd payload, route cfg c = some rt ∧ payload.length ≤ maxPayload ∧ pkg = pkgBytes rt.address cmd payload
  | .rd c _ => c < numChannels cfg

/-- The shape of a result register (10_state R24, 60_exceptions R180): nothing written; or an error, which writes
`status` only; or `OK` with data. -/
def Result.Legal (res : Result) : Prop :=
  res = Result.unwritten ∨ res.status = some .ok ∨ ∃ st, st ≠ .ok ∧ res = Result.error st

/-- The invariant of the block's state: the lock table is canonical; `LOCK[k] = Held(r)` exactly when `PHASE[r]` is
`WR` or `RD` on a channel of domain `k` (10_state R29); every phase and every result is legal; and a configuration
that R28 refuses carries the refusal mark. -/
structure State.Inv (s : State) : Prop where
  locksWf : LocksWf s.locks
  lockIff : ∀ k r, s.lock k = .held r ↔
    ∃ q, s.requesters[r]? = some q ∧ q.phase.heldDomain? s.config = some k
  phases : ∀ q ∈ s.requesters, q.phase.Legal s.config
  results : ∀ q ∈ s.requesters, q.result.Legal
  config : s.refusalMark = none → configRefused s.config = false

/-- Whether requester `r` has an enabled step (10_state R20, 41_channel R141 to R143, 70_reset R214): none under the
refusal mark (00_scope R11, 60_exceptions R184); else idle with something to send or read; waiting for a lock that is
free; or holding its lock. -/
def State.hasStep (s : State) (r : Nat) : Bool :=
  match s.refusalMark with
  | some _ => false
  | none =>
    match s.requesters[r]? with
    | none => false
    | some q =>
      match q.phase with
      | .idle => !q.port.isEmpty
      | .acq c _ _ _ =>
        match route s.config c with
        | none => false
        | some rt => decide (s.lock rt.domain = .free)
      | .wr _ _ _ => true
      | .rd _ _ => true

/-- The run is over (70_reset R214). -/
def State.Over (s : State) : Prop :=
  (∀ q ∈ s.requesters, q.phase = .idle) ∧ (∀ k, s.lock k = .free) ∧ s.faultMark = false ∧ s.refusalMark = none

/-- Stuck (70_reset R214): a requester waits for a lock whose holder has no step. With the invariant a holder without a
step never gets one: it is in `WR` or `RD`, and only the refusal mark, which nothing clears, takes its step away. -/
def State.Stuck (s : State) : Prop :=
  ∃ (r h : Nat) (q : Requester) (c : Nat) (cmd : Byte) (payload : Bytes) (tmo : Millis) (rt : Route),
    s.requesters[r]? = some q ∧ q.phase = .acq c cmd payload tmo
    ∧ route s.config c = some rt ∧ s.lock rt.domain = .held h ∧ s.hasStep h = false

/-- Where the events of one lock domain stand (20_memory R58): no exchange; acquired, to be written; written, to be
read; or its last call made, to be released. Each exchange belongs to one requester. -/
inductive Exchange where
  | none
  | acquired (r : Nat)
  | written (r : Nat)
  | closing (r : Nat)
  deriving DecidableEq, Repr

/-- The next event of domain `k` in the order of 20_memory R57 and R58: `Acquire` only when no exchange is open, then
one `Tx` by the same requester, then one `Rx` exactly when the `Tx` outcome is `Ok`, then `Release`. Events of other
domains and framer operations leave the domain where it stands (R59, R64). -/
def Exchange.after (cfg : Config) (k : Nat) (x : Exchange) (e : Event) : Option Exchange :=
  match e with
  | .op _ _ _ => some x
  | .acquire r k' => if k' ≠ k then some x else if x = .none then some (.acquired r) else none
  | .tx r line _ w =>
    if lockOf cfg line ≠ k then some x
    else if x = .acquired r then some (if w = .ok then .written r else .closing r) else none
  | .rx r line _ =>
    if lockOf cfg line ≠ k then some x
    else if x = .written r then some (.closing r) else none
  | .release r k' => if k' ≠ k then some x else if x = .closing r then some .none else none

/-- Where domain `k` stands after a history, if the history keeps the order of R57 and R58. -/
def exchangeAfter (cfg : Config) (k : Nat) (x : Exchange) : List Event → Option Exchange
  | [] => some x
  | e :: rest =>
    match x.after cfg k e with
    | none => none
    | some y => exchangeAfter cfg k y rest

/-- The state of domain `k` matches where its history stands: free with no exchange, or held by the requester whose
phase says what comes next (10_state R29, 20_memory R58). -/
def Exchange.Matches (s : State) (k : Nat) : Exchange → Prop
  | .none => s.lock k = .free
  | .acquired r => s.lock k = .held r ∧ ∃ q c pkg tmo, s.requesters[r]? = some q ∧ q.phase = .wr c pkg tmo
  | .written r => s.lock k = .held r ∧ ∃ q c tmo, s.requesters[r]? = some q ∧ q.phase = .rd c tmo
  | .closing _ => False

/-- The history keeps the order of R57 and R58 in every lock domain, and stands where the state says. -/
def State.HistoryOrdered (s : State) : Prop :=
  ∀ k, ∃ x, exchangeAfter s.config k .none s.hist = some x ∧ x.Matches s k

/-- What every `Tx` event carries (30_encoding R72, 10_state R33): a package the framer builds, for the address of a
channel of that line. -/
def Event.PackageFramed (cfg : Config) : Event → Prop
  | .tx _ line pkg _ =>
    ∃ ch ∈ cfg.channels, ch.line = line ∧
      ∃ cmd payload, payload.length ≤ maxPayload ∧ pkg = pkgBytes ch.address cmd payload
  | .acquire _ _ => True
  | .rx _ _ _ => True
  | .release _ _ => True
  | .op _ _ _ => True

/-- Every package in the history was framed for a channel of its line. -/
def State.TxFramed (s : State) : Prop := ∀ e ∈ s.hist, e.PackageFramed s.config

/-- Requester `q` is the one whose step is being taken, and it is idle: when an operation is issued (40_framer R100,
41_channel R140). -/
def Issuing (s : State) (q : Requester) : Prop :=
  s.requesters[s.current]? = some q ∧ q.phase = .idle

/-- `t` differs from `s` in the record of the current requester, which becomes `q'`, in the lock table and in the
events `evs` appended to the history, and in nothing else (10_state R21, R27, R30). -/
def OnlyCurrent (s t : State) (q' : Requester) (locks : List (Nat × Nat)) (evs : List Event) : Prop :=
  t.requesters[s.current]? = some q'
    ∧ (∀ r, r ≠ s.current → t.requesters[r]? = s.requesters[r]?)
    ∧ t.requesters.length = s.requesters.length
    ∧ t.locks = locks
    ∧ t.hist = s.hist ++ evs
    ∧ t.config = s.config
    ∧ t.faultMark = s.faultMark
    ∧ t.refusalMark = s.refusalMark
    ∧ t.turns = s.turns
    ∧ t.current = s.current

/-- What a framer operation of requester `q` with word `opw` and result `res` does (40_framer R100): the result is
written, one event is appended, and nothing else changes; the phase stays `IDLE`. -/
def FramerEffect (s t : State) (q : Requester) (opw : OpWord) (res : Result) : Prop :=
  OnlyCurrent s t { q with result := res } s.locks [.op s.current opw res]

/-- The next thing the block does is the turn `tn` of requester `q`, with the turns `rest` after it: no refusal mark is
set (00_scope R11), and the requester exists (10_state R20). -/
def TurnOf (s : State) (tn : Turn) (rest : List Turn) (q : Requester) : Prop :=
  s.refusalMark = none ∧ s.turns = tn :: rest ∧ s.requesters[tn.requester]? = some q

/-- Field `f` of a result is unwritten (10_state R24, R26). -/
def FieldUnwritten (res : Result) : ResultField → Prop
  | .status => res.status = none
  | .bytes => res.bytes = none
  | .addr => res.addr = none
  | .cmd => res.cmd = none
  | .size => res.size = none
  | .payload => res.payload = none
  | .checksum => res.checksum = none
  | .valid => res.valid = none

/-- Field `f` of a result is written and a read of it delivers `v`: the status as its code, every other field as it is
(10_state R24, 60_exceptions R181). -/
def FieldHolds (res : Result) (v : FieldValue) : ResultField → Prop
  | .status => ∃ st, res.status = some st ∧ v = .byte st.code
  | .bytes => ∃ b, res.bytes = some b ∧ v = .stream b
  | .addr => ∃ a, res.addr = some a ∧ v = .byte a
  | .cmd => ∃ c, res.cmd = some c ∧ v = .byte c
  | .size => ∃ n, res.size = some n ∧ v = .size n
  | .payload => ∃ p, res.payload = some p ∧ v = .stream p
  | .checksum => ∃ c, res.checksum = some c ∧ v = .byte c
  | .valid => ∃ b, res.valid = some b ∧ v = .bool b

/-- An illegal operation word on a block with `n` channels, clause by clause as 30_encoding R82 and R83 give it, the
fields being digits of the word's number (R78). -/
def IllegalWord (n : Nat) (w : OpWord) : Prop :=
  w.toNat % 256 ∉ [1, 2, 3, 4, 5, 6, 16]
    ∨ (w.toNat / 256 % 256 ≠ 0 ∧ w.toNat % 256 ≠ 3)
    ∨ (w.toNat / 65536 % 256 ≠ 0 ∧ w.toNat % 256 ∉ [1, 3, 16])
    ∨ (w.toNat / 16777216 ≠ 0 ∧ w.toNat % 256 ≠ 16)
    ∨ (w.toNat % 256 = 16 ∧ n ≤ w.toNat / 16777216)

/-- The sum of a stream's bytes as a number (00_scope R10, before it is reduced). -/
def byteSum (s : Bytes) : Nat := (s.map BitVec.toNat).sum

/-- The framer operations (40_framer): every operation but `CH_REQUEST`. -/
def isFramer : Instr → Bool
  | .msgBuild _ _ => true
  | .msgParse _ => true
  | .pkgBuild _ _ _ => true
  | .pkgParse _ => true
  | .chkCalc _ => true
  | .chkVerify _ => true
  | .chRequest _ _ _ _ => false

/-- The one refused operation (60_exceptions R184): `PKG_BUILD` with an address above 31. -/
def isRefused : Instr → Bool
  | .pkgBuild addr _ _ => decide (maxAddress < addr.toNat)
  | .msgBuild _ _ => false
  | .msgParse _ => false
  | .pkgParse _ => false
  | .chkCalc _ => false
  | .chkVerify _ => false
  | .chRequest _ _ _ _ => false

end Sys2Proof.Machine
end

