-- ==== Sys2Proof/Certificates/Slice0/Obligations.lean ====
section
/-! DEFINITION. The statements for the provers, one definition each, in the order of OBLIGATIONS.json: the encoding, the
step, the framer operations, the channel sequencer, the invariants of every step. `s` is any state, reached or not. -/

open Sys2Proof Sys2Proof.Machine

/-! ### Encoding -/

/-- R78, R79, R81, R82, R86: every well-formed operation is read back from the request that carries it, with every
operand at every value. -/
def Obligations.DecodeEncode : Prop :=
  ∀ (n : Nat) (i : Instr), i.wellFormed n = true → decode n (encode i) = some i

/-- R78, R79, R86: a legal word has one meaning, and every bit of it is in that meaning: the operation read from a request
is carried by that word and that stream, and names a channel the block has; `CH_REQUEST` keeps the timeout too. -/
def Obligations.DecodedWordIsItsEncoding : Prop :=
  ∀ (n : Nat) (rq : Request) (i : Instr), decode n rq = some i →
    encodeWord i = rq.opw ∧ encodeData i = rq.dataIn ∧ i.wellFormed n = true
      ∧ (isFramer i = false → encodeTimeout i = rq.timeoutMs)

/-- R82, R83, R86: the words the decoder rejects are exactly the illegal ones. -/
def Obligations.RejectedWordsAreTheIllegalOnes : Prop :=
  ∀ (n : Nat) (rq : Request), decode n rq = none ↔ IllegalWord n rq.opw

/-- R83: an illegal word completes in one step with status `ILLEGAL_OPERATION` and one `Op` event, whatever the side
operands, and changes nothing else. -/
def Obligations.IllegalWordCompletes : Prop :=
  ∀ (s : State) (tn : Turn) (rest : List Turn) (q : Requester) (rq : Request) (ps : List PortAction),
    TurnOf s tn rest q → q.phase = .idle → q.port = .issue rq :: ps →
    IllegalWord (numChannels s.config) rq.opw →
    ∃ t, step s = .next t ∧
      OnlyCurrent (s.beginTurn tn rest) t
        { q with port := ps, result := { Result.unwritten with status := some .illegalOperation } }
        s.locks [.op tn.requester rq.opw { Result.unwritten with status := some .illegalOperation }]

/-- R87 and 95_test_vectors: words the spec writes out decode to the operations they stand for. -/
def Obligations.WrittenOutWordsDecode : Prop :=
  decodeTableWord 32 0x00100001 = some (.msgBuild 0x10 [])
    ∧ decodeTableWord 32 0x00000002 = some (.msgParse [])
    ∧ decodeTableWord 32 0x00100503 = some (.pkgBuild 5 0x10 [])
    ∧ decodeTableWord 32 0x00000004 = some (.pkgParse [])
    ∧ decodeTableWord 32 0x00000005 = some (.chkCalc [])
    ∧ decodeTableWord 32 0x00000006 = some (.chkVerify [])
    ∧ decodeTableWord 32 0x02100010 = some (.chRequest 2 0x10 [] 0)
    ∧ decodeTableWord 32 0x00000102 = none

/-! ### The step -/

/-- R20, R86: a step runs the decoded operation. When the turn's requester is idle and its port sends a request that
decodes to `i`, the step is `exec i` at the state in which the turn has begun, the requester is the current one and its
port has moved past the request; nothing else of that state differs from `s`. -/
def Obligations.StepRunsTheDecodedOperation : Prop :=
  ∀ (s : State) (tn : Turn) (rest : List Turn) (q : Requester) (rq : Request) (ps : List PortAction) (i : Instr),
    TurnOf s tn rest q → q.phase = .idle → q.port = .issue rq :: ps →
    decode (numChannels s.config) rq = some i →
    ∃ u, step s = exec i u ∧ Issuing u { q with port := ps }
      ∧ OnlyCurrent (s.beginTurn tn rest) u { q with port := ps } s.locks []

/-- R210: reset puts the block, with any configuration that is not refused and any number of requesters, at the values
of R35, and it then waits: the turn of any requester changes nothing. That this holds for counts outside the ranges of R8
too (no requester; no channel or more than 256; no line) is log entry 21's choice. -/
def Obligations.LaunchIsIdleAndWaits : Prop :=
  ∀ (cfg : Config) (n : Nat), configRefused cfg = false →
    (launch cfg n).requesters.length = n
      ∧ (∀ q ∈ (launch cfg n).requesters, q.phase = .idle ∧ ∀ f, readField q.result f = none)
      ∧ (∀ k, (launch cfg n).lock k = .free)
      ∧ (launch cfg n).hist = []
      ∧ (launch cfg n).refusalMark = none
      ∧ (launch cfg n).config = cfg
      ∧ ∀ (tn : Turn) (rest : List Turn),
          step { launch cfg n with turns := tn :: rest }
            = .next { launch cfg n with turns := rest, current := tn.requester }

/-- R28, R184: a configuration with an address above 31, with a line the block does not have, or with a line another
block instance drives, carries the refusal mark from its launch and has no step; every other one launches unmarked.
That `foreignLines` holds the lines another instance drives is log entry 13's choice; that counts outside the ranges of R8
launch is log entry 21's. -/
def Obligations.RefusedConfigurationHasNoLaunch : Prop :=
  ∀ (cfg : Config) (n : Nat) (turns : List Turn),
    (((∃ ch ∈ cfg.channels, 31 < ch.address.toNat) ∨ (∃ ch ∈ cfg.channels, numLines cfg ≤ ch.line)
        ∨ (∃ ch ∈ cfg.channels, ch.line ∈ cfg.foreignLines)) →
      step { launch cfg n with turns := turns } = .refused (.marked .configuration))
    ∧ (¬ ((∃ ch ∈ cfg.channels, 31 < ch.address.toNat) ∨ (∃ ch ∈ cfg.channels, numLines cfg ≤ ch.line)
        ∨ (∃ ch ∈ cfg.channels, ch.line ∈ cfg.foreignLines)) →
      ∃ t, step { launch cfg n with turns := turns } = .next t ∧ t.refusalMark = none)

/-! ### Framer operations -/

/-- R105: `MSG_BUILD`, both of its outcomes, with everything it leaves unchanged. -/
def Obligations.MsgBuildResult : Prop :=
  ∀ (s : State) (q : Requester) (cmd : Byte) (payload : Bytes), Issuing s q →
    ∃ t res, exec (.msgBuild cmd payload) s = .next t
      ∧ FramerEffect s t q (encodeWord (.msgBuild cmd payload)) res
      ∧ if 65535 < payload.length then res = { Result.unwritten with status := some .payloadTooLong }
        else ∃ (hi lo : Byte) (size : Size), hi.toNat * 256 + lo.toNat = payload.length ∧ size.toNat = payload.length
          ∧ res = { Result.unwritten with
              status := some .ok, bytes := some (cmd :: hi :: lo :: payload), size := some size }

/-- R104, R106: `MSG_PARSE`, by the form of the stream: too short, or a command, two length bytes and the rest. -/
def Obligations.MsgParseResult : Prop :=
  ∀ (s : State) (q : Requester) (m : Bytes), Issuing s q →
    ∃ t res, exec (.msgParse m) s = .next t ∧ FramerEffect s t q (encodeWord (.msgParse m)) res
      ∧ (m.length < 3 → res = { Result.unwritten with status := some .messageTooShort })
      ∧ ∀ (cmd hi lo : Byte) (payload : Bytes), m = cmd :: hi :: lo :: payload →
          if s.config.strictLength = true ∧ hi.toNat * 256 + lo.toNat ≠ payload.length then
            res = { Result.unwritten with status := some .lengthMismatch }
          else ∃ size : Size, size.toNat = hi.toNat * 256 + lo.toNat
            ∧ res = { Result.unwritten with
                status := some .ok, cmd := some cmd, size := some size, payload := some payload }

/-- R107, R184, R11: `PKG_BUILD`. An address above 31 sets the refusal mark, changes nothing else, so no event is recorded,
and no step follows: log entry 6's reading of a refusal. Else a payload over 65535 bytes is a status; else the package is
the address, the command, the length, the payload and the byte that brings the sum of all of them to 0 mod 256. -/
def Obligations.PkgBuildResult : Prop :=
  ∀ (s : State) (q : Requester) (addr cmd : Byte) (payload : Bytes), Issuing s q →
    ∃ t, exec (.pkgBuild addr cmd payload) s = .next t
      ∧ if 31 < addr.toNat then
          t = { s with refusalMark := some .addressOutOfRange } ∧ step t = .refused (.marked .addressOutOfRange)
        else ∃ res, FramerEffect s t q (encodeWord (.pkgBuild addr cmd payload)) res
          ∧ if 65535 < payload.length then res = { Result.unwritten with status := some .payloadTooLong }
            else ∃ hi lo c : Byte, hi.toNat * 256 + lo.toNat = payload.length
              ∧ (byteSum (addr :: cmd :: hi :: lo :: payload) + c.toNat) % 256 = 0
              ∧ res = { Result.unwritten with
                  status := some .ok, bytes := some (addr :: cmd :: hi :: lo :: (payload ++ [c])), checksum := some c }

/-- R108: `PKG_PARSE`, its checks in the rule's order, by the form of the stream: too short, or an address, a command, two
length bytes, a payload and a checksum. Any address and any command is accepted. -/
def Obligations.PkgParseResult : Prop :=
  ∀ (s : State) (q : Requester) (p : Bytes), Issuing s q →
    ∃ t res, exec (.pkgParse p) s = .next t ∧ FramerEffect s t q (encodeWord (.pkgParse p)) res
      ∧ (p.length < 5 → res = { Result.unwritten with status := some .packageTooShort })
      ∧ ∀ (addr cmd hi lo c : Byte) (payload : Bytes), p = addr :: cmd :: hi :: lo :: (payload ++ [c]) →
          if byteSum p % 256 ≠ 0 then res = { Result.unwritten with status := some .checksumError }
          else if s.config.strictLength = true ∧ hi.toNat * 256 + lo.toNat ≠ payload.length then
            res = { Result.unwritten with status := some .lengthMismatch }
          else ∃ size : Size, size.toNat = hi.toNat * 256 + lo.toNat
            ∧ res = { Result.unwritten with
                status := some .ok, addr := some addr, cmd := some cmd, size := some size
                payload := some payload, checksum := some c }

/-- R109: `CHK_CALC` always succeeds, on every stream. -/
def Obligations.ChkCalcResult : Prop :=
  ∀ (s : State) (q : Requester) (m : Bytes), Issuing s q →
    ∃ t, ∃ c : Byte, exec (.chkCalc m) s = .next t
      ∧ c.toNat = (256 - byteSum m % 256) % 256
      ∧ FramerEffect s t q (encodeWord (.chkCalc m))
          { Result.unwritten with status := some .ok, checksum := some c }

/-- R110, R102: `CHK_VERIFY` always succeeds; it answers true exactly for a non-empty stream whose sum is 0 mod 256. -/
def Obligations.ChkVerifyResult : Prop :=
  ∀ (s : State) (q : Requester) (p : Bytes), Issuing s q →
    ∃ t, ∃ b : Bool, exec (.chkVerify p) s = .next t
      ∧ (b = true ↔ 1 ≤ p.length ∧ byteSum p % 256 = 0)
      ∧ FramerEffect s t q (encodeWord (.chkVerify p))
          { Result.unwritten with status := some .ok, valid := some b }

/-- R102: the checksum check, by the last byte and by the sum of all bytes. -/
def Obligations.VerifyIsSumZero : Prop :=
  (∀ p : Bytes, verify p = true ↔ ∃ h : 1 ≤ p.length, chk (p.take (p.length - 1)) = p[p.length - 1])
    ∧ (∀ p : Bytes, 1 ≤ p.length → (verify p = true ↔ byteSum p % 256 = 0))
    ∧ verify [] = false

/-- R111: summing with 8-bit wrap-around after every byte gives the same value, the negation is the two's complement, and
the length field is exact for every length a build can write. -/
def Obligations.FramerArithmetic : Prop :=
  (∀ m : Bytes, sum8 m = m.foldl (fun acc b => acc + b) 0)
    ∧ (∀ x : Byte, neg8 x = ~~~x + 1)
    ∧ ∀ n : Nat, n ≤ 65535 → ∃ hi lo : Byte, be16 n = [hi, lo] ∧ hi.toNat * 256 + lo.toNat = n

/-- R112: `PKG_PARSE` of the bytes that `PKG_BUILD` wrote gives back the address, the command, the payload, its length and
the same checksum, for either value of `STRICT_LENGTH` and whoever parses. -/
def Obligations.PackageRoundTrip : Prop :=
  ∀ (s : State) (q : Requester) (addr cmd : Byte) (payload : Bytes), Issuing s q → addr.toNat ≤ 31 →
    payload.length ≤ 65535 →
    ∃ t bytes c, exec (.pkgBuild addr cmd payload) s = .next t
      ∧ (t.requesters[s.current]?).map Requester.result
          = some { Result.unwritten with status := some .ok, bytes := some bytes, checksum := some c }
      ∧ ∀ (s' : State) (q' : Requester), Issuing s' q' →
          ∃ t', ∃ size : Size, exec (.pkgParse bytes) s' = .next t' ∧ size.toNat = payload.length
            ∧ (t'.requesters[s'.current]?).map Requester.result
                = some { Result.unwritten with
                    status := some .ok, addr := some addr, cmd := some cmd, size := some size
                    payload := some payload, checksum := some c }

/-- R113: replacing any one byte of a built package by a different value makes `CHK_VERIFY` answer false and `PKG_PARSE`
report a checksum error. -/
def Obligations.SingleByteChangeIsDetected : Prop :=
  ∀ (s : State) (q : Requester) (addr cmd : Byte) (payload : Bytes) (j : Nat) (x : Byte), Issuing s q →
    payload.length ≤ 65535 → ∀ h : j < (pkgBytes addr cmd payload).length, x ≠ (pkgBytes addr cmd payload)[j] →
    (∃ t, exec (.chkVerify ((pkgBytes addr cmd payload).set j x)) s = .next t
      ∧ (t.requesters[s.current]?).map Requester.result
          = some { Result.unwritten with status := some .ok, valid := some false })
    ∧ ∃ t, exec (.pkgParse ((pkgBytes addr cmd payload).set j x)) s = .next t
      ∧ (t.requesters[s.current]?).map Requester.result
          = some { Result.unwritten with status := some .checksumError }

/-- R114: what the checksum does not detect: changes whose differences sum to 0 mod 256, two bytes swapped, a zero byte
inserted, and a zero byte deleted from a stream that keeps another byte. -/
def Obligations.ChecksumMissesBalancedChanges : Prop :=
  (∀ p p' : Bytes, p.length = p'.length → byteSum p % 256 = byteSum p' % 256 → verify p = verify p')
    ∧ (∀ p p' : Bytes, p.Perm p' → verify p = verify p')
    ∧ ∀ a b : Bytes, 1 ≤ (a ++ b).length → verify (a ++ 0 :: b) = verify (a ++ b)

/-- R31, R64: the result of a framer operation depends on its operands and `STRICT_LENGTH` alone: two states that agree on
that one register and differ in anything else give the same result and the same event. -/
def Obligations.FramerResultDependsOnOperandsOnly : Prop :=
  ∀ (i : Instr) (s s' : State) (q q' : Requester), isFramer i = true → isRefused i = false →
    Issuing s q → Issuing s' q' → s.config.strictLength = s'.config.strictLength →
    ∃ t t' res, exec i s = .next t ∧ exec i s' = .next t'
      ∧ FramerEffect s t q (encodeWord i) res ∧ FramerEffect s' t' q' (encodeWord i) res

/-! ### The requester port -/

/-- R26, R185: reading an unwritten field sets the fault mark; no value is delivered and nothing else changes but the
port. -/
def Obligations.ReadOfUnwrittenFieldFaults : Prop :=
  ∀ (s : State) (tn : Turn) (rest : List Turn) (q : Requester) (f : ResultField) (ps : List PortAction),
    TurnOf s tn rest q → q.phase = .idle → q.port = .read f :: ps → readField q.result f = none →
    ∃ t u, step s = .next t ∧ t = { u with faultMark := true }
      ∧ OnlyCurrent (s.beginTurn tn rest) u { q with port := ps } s.locks []

/-- R21, R24, R26, R181: a read finds nothing exactly in an unwritten field; reading a written field delivers what that
field of the requester's own result holds, the status as its code and every other field as it is, and changes nothing of
the block. -/
def Obligations.ReadOfWrittenFieldDelivers : Prop :=
  (∀ (res : Result) (f : ResultField), readField res f = none ↔ FieldUnwritten res f)
    ∧ ∀ (s : State) (tn : Turn) (rest : List Turn) (q : Requester) (f : ResultField) (v : FieldValue)
        (ps : List PortAction),
        TurnOf s tn rest q → q.phase = .idle → q.port = .read f :: ps → FieldHolds q.result v f →
        ∃ t, step s = .next t
          ∧ OnlyCurrent (s.beginTurn tn rest) t { q with port := ps, lastRead := some v } s.locks []

/-- R21, R27: reading a configuration register delivers its value, for every register the block has: a channel's address
and line, a line's lock domain, and `STRICT_LENGTH`; a read changes nothing of the block. A read that names no register
of the block delivers nothing, log entry 23's choice. -/
def Obligations.ReadOfConfigRegisterDelivers : Prop :=
  ∀ (s : State) (tn : Turn) (rest : List Turn) (q : Requester) (x : ConfigRegister) (ps : List PortAction),
    TurnOf s tn rest q → q.phase = .idle → q.port = .readConfig x :: ps →
    ∃ t v, step s = .next t ∧ OnlyCurrent (s.beginTurn tn rest) t { q with port := ps, lastRead := v } s.locks []
      ∧ match x with
        | .address c => if h : c < numChannels s.config then v = some (.byte (s.config.channels[c]'h).address)
            else v = q.lastRead
        | .line c => if h : c < numChannels s.config then v = some (.number (s.config.channels[c]'h).line)
            else v = q.lastRead
        | .lockOf l => if h : l < numLines s.config then v = some (.number (s.config.lockMap[l]'h))
            else v = q.lastRead
        | .strictLength => v = some (.bool s.config.strictLength)

/-- R181: the ten status codes by name, as the table gives them; no two share a number and none is a reserved one. -/
def Obligations.StatusCodesAreTheTable : Prop :=
  Status.code .ok = 0x00
    ∧ Status.code .payloadTooLong = 0x01
    ∧ Status.code .messageTooShort = 0x02
    ∧ Status.code .packageTooShort = 0x03
    ∧ Status.code .checksumError = 0x04
    ∧ Status.code .lengthMismatch = 0x05
    ∧ Status.code .emptyResponse = 0x06
    ∧ Status.code .transportTimeout = 0x07
    ∧ Status.code .transportIoError = 0x08
    ∧ Status.code .illegalOperation = 0x09
    ∧ (∀ st st' : Status, st.code = st'.code → st = st') ∧ ∀ st : Status, st.code.toNat ≤ 9

/-! ### The channel sequencer -/

/-- R140: issuing `CH_REQUEST`: an unknown channel is illegal; a payload over 65535 bytes is a status and takes no lock;
else the request waits for its lock, and nothing else has changed. That a refused payload leaves no event is log
entry 9's reading. -/
def Obligations.ChRequestIssue : Prop :=
  ∀ (s : State) (q : Requester) (chan cmd : Byte) (payload : Bytes) (tmo : Millis), Issuing s q →
    ∃ t, exec (.chRequest chan cmd payload tmo) s = .next t
      ∧ if numChannels s.config ≤ chan.toNat then
          FramerEffect s t q (encodeWord (.chRequest chan cmd payload tmo))
            { Result.unwritten with status := some .illegalOperation }
        else if 65535 < payload.length then
          OnlyCurrent s t { q with result := { Result.unwritten with status := some .payloadTooLong } } s.locks []
        else OnlyCurrent s t { q with phase := .acq chan.toNat cmd payload tmo } s.locks []

/-- R141: acquire. Enabled only when the lock is free; then the lock is taken, the event recorded and the package framed
for the channel's address in one step; while the lock is held the requester has no step. -/
def Obligations.AcquireStepTakesTheFreeLock : Prop :=
  ∀ (s : State) (tn : Turn) (rest : List Turn) (q : Requester) (c : Nat) (cmd : Byte) (payload : Bytes) (tmo : Millis)
    (ch : Channel),
    TurnOf s tn rest q → q.phase = .acq c cmd payload tmo → s.config.channels[c]? = some ch →
    if s.lock (lockOf s.config ch.line) = .free then
      ∃ t, step s = .next t
        ∧ OnlyCurrent (s.beginTurn tn rest) t
            { q with
              phase := .wr c
                ([ch.address] ++ msgBytes cmd payload ++ [chk ([ch.address] ++ msgBytes cmd payload)]) tmo }
            t.locks [.acquire tn.requester (lockOf s.config ch.line)]
        ∧ ∀ k, t.lock k = if k = lockOf s.config ch.line then .held tn.requester else s.lock k
    else step s = .next (s.beginTurn tn rest)

/-- R151: of several requesters that wait for one free lock, the turn of any one grants it the lock, whatever the order in
which they came, and the others go on waiting. -/
def Obligations.AnyWaiterMayBeGranted : Prop :=
  ∀ (s : State) (rs : List Nat) (k : Nat),
    s.refusalMark = none → s.lock k = .free →
    (∀ r ∈ rs, ∃ q c cmd payload tmo ch, s.requesters[r]? = some q ∧ q.phase = .acq c cmd payload tmo
      ∧ s.config.channels[c]? = some ch ∧ lockOf s.config ch.line = k) →
    ∀ (tn : Turn) (rest : List Turn), tn.requester ∈ rs →
      ∃ t, step { s with turns := tn :: rest } = .next t ∧ t.lock k = .held tn.requester
        ∧ ∀ r ∈ rs, r ≠ tn.requester → t.requesters[r]? = s.requesters[r]?

/-- R142: write. The transport's answer is recorded; `Ok` goes on to the read with the lock held; a failure skips the
read, frees the lock and ends the request with the transport's status. -/
def Obligations.WriteStepFollowsTheOutcome : Prop :=
  ∀ (s : State) (tn : Turn) (rest : List Turn) (q : Requester) (c : Nat) (pkg : Bytes) (tmo : Millis) (ch : Channel),
    TurnOf s tn rest q → q.phase = .wr c pkg tmo → s.config.channels[c]? = some ch →
    ∃ t, step s = .next t ∧
      match tn.tx with
      | .ok =>
        OnlyCurrent (s.beginTurn tn rest) t { q with phase := .rd c tmo } s.locks [.tx tn.requester ch.line pkg .ok]
      | .timeout =>
        OnlyCurrent (s.beginTurn tn rest) t
            { q with phase := .idle, result := { Result.unwritten with status := some .transportTimeout } } t.locks
            [.tx tn.requester ch.line pkg .timeout, .release tn.requester (lockOf s.config ch.line)]
          ∧ ∀ k, t.lock k = if k = lockOf s.config ch.line then .free else s.lock k
      | .ioError =>
        OnlyCurrent (s.beginTurn tn rest) t
            { q with phase := .idle, result := { Result.unwritten with status := some .transportIoError } } t.locks
            [.tx tn.requester ch.line pkg .ioError, .release tn.requester (lockOf s.config ch.line)]
          ∧ ∀ k, t.lock k = if k = lockOf s.config ch.line then .free else s.lock k

/-- R143: read, parse and release, in one step, whatever the transport answers that the receive path holds: with the
decided, unbounded receive path (R8), any answer at all. -/
def Obligations.ReadStepParsesAndReleases : Prop :=
  ∀ (s : State) (tn : Turn) (rest : List Turn) (q : Requester) (c : Nat) (tmo : Millis) (ch : Channel),
    TurnOf s tn rest q → q.phase = .rd c tmo → s.config.channels[c]? = some ch →
    rxFits s.config.rxCapacity tn.rx = true →
    ∃ t, step s = .next t
      ∧ OnlyCurrent (s.beginTurn tn rest) t
          { q with phase := .idle, result := rxResult s.config.strictLength tn.rx } t.locks
          [.rx tn.requester ch.line tn.rx, .release tn.requester (lockOf s.config ch.line)]
      ∧ ∀ k, t.lock k = if k = lockOf s.config ch.line then .free else s.lock k

/-- R144: the result of the transport's answer: its own failures, the empty response before any parse, and the parsed
package's status, with only the Message's fields on success. Neither the response's address nor its checksum byte is
returned; the checksum is checked, and the address and the command are compared with nothing (R149). -/
def Obligations.ResponseMapping : Prop :=
  ∀ strict : Bool,
    rxResult strict .timeout = { Result.unwritten with status := some .transportTimeout }
      ∧ rxResult strict .ioError = { Result.unwritten with status := some .transportIoError }
      ∧ rxResult strict (.bytes []) = { Result.unwritten with status := some .emptyResponse }
      ∧ (∀ m : Bytes, 1 ≤ m.length → m.length < 5 →
          rxResult strict (.bytes m) = { Result.unwritten with status := some .packageTooShort })
      ∧ ∀ (addr cmd hi lo c : Byte) (payload : Bytes),
          if byteSum (addr :: cmd :: hi :: lo :: (payload ++ [c])) % 256 ≠ 0 then
            rxResult strict (.bytes (addr :: cmd :: hi :: lo :: (payload ++ [c])))
              = { Result.unwritten with status := some .checksumError }
          else if strict = true ∧ hi.toNat * 256 + lo.toNat ≠ payload.length then
            rxResult strict (.bytes (addr :: cmd :: hi :: lo :: (payload ++ [c])))
              = { Result.unwritten with status := some .lengthMismatch }
          else ∃ size : Size, size.toNat = hi.toNat * 256 + lo.toNat
            ∧ rxResult strict (.bytes (addr :: cmd :: hi :: lo :: (payload ++ [c])))
              = { Result.unwritten with
                  status := some .ok, cmd := some cmd, size := some size, payload := some payload }

/-- R182, R188: the transport errors are the timeout and the I/O error. A read gives one exactly when the transport reported
one, and gives `OK` exactly for the bytes of a package whose checksum is right and, under `STRICT_LENGTH`, whose length
field is; a write goes on exactly when the transport answered `Ok`, and every other answer is a transport error. -/
def Obligations.TransportErrorsComeFromTheTransport : Prop :=
  (∀ st : Status, st.isTransportError = true ↔ st = .transportTimeout ∨ st = .transportIoError)
    ∧ (∀ (strict : Bool) (a : RxAnswer), ∃ st, (rxResult strict a).status = some st
        ∧ (st.isTransportError = true ↔ a = .timeout ∨ a = .ioError)
        ∧ (st = .ok ↔ ∃ (addr cmd hi lo c : Byte) (payload : Bytes),
            a = .bytes (addr :: cmd :: hi :: lo :: (payload ++ [c]))
              ∧ verify (addr :: cmd :: hi :: lo :: (payload ++ [c])) = true
              ∧ (strict = true → hi.toNat * 256 + lo.toNat = payload.length)))
    ∧ (∀ w : TxOutcome, txFailure w = none ↔ w = .ok)
    ∧ ∀ (w : TxOutcome) (st : Status), txFailure w = some st → st.isTransportError = true

/-- R140 to R143, R145, R146: a request whose lock is free ends within three turns of its requester, with the lock free
again and exactly one write and at most one read in the history: two turns when the write fails, three when it succeeds
and the receive path holds the answer. -/
def Obligations.ExchangeEndsInThreeTurns : Prop :=
  ∀ (s : State) (r : Nat) (q : Requester) (c : Nat) (cmd : Byte) (payload : Bytes) (tmo : Millis) (ch : Channel)
    (t1 t2 t3 : Turn) (rest : List Turn),
    s.refusalMark = none → s.turns = t1 :: t2 :: t3 :: rest →
    t1.requester = r → t2.requester = r → t3.requester = r →
    s.requesters[r]? = some q → q.phase = .acq c cmd payload tmo → s.config.channels[c]? = some ch →
    s.lock (lockOf s.config ch.line) = .free →
    (∀ st, txFailure t2.tx = some st →
      ∃ a t, step s = .next a ∧ step a = .next t
        ∧ t.requesters[r]? = some { q with phase := .idle, result := Result.error st }
        ∧ t.lock (lockOf s.config ch.line) = .free
        ∧ t.hist = s.hist ++ [.acquire r (lockOf s.config ch.line),
            .tx r ch.line (pkgBytes ch.address cmd payload) t2.tx, .release r (lockOf s.config ch.line)])
    ∧ (t2.tx = .ok → rxFits s.config.rxCapacity t3.rx = true →
      ∃ a b t, step s = .next a ∧ step a = .next b ∧ step b = .next t
        ∧ t.requesters[r]? = some { q with phase := .idle, result := rxResult s.config.strictLength t3.rx }
        ∧ t.lock (lockOf s.config ch.line) = .free
        ∧ t.hist = s.hist ++ [.acquire r (lockOf s.config ch.line),
            .tx r ch.line (pkgBytes ch.address cmd payload) .ok, .rx r ch.line t3.rx,
            .release r (lockOf s.config ch.line)])

/-! ### What every step keeps -/

/-- R21, R192: a step changes the record of at most one requester, the one whose turn it is. -/
def Obligations.StepChangesOneRequesterOnly : Prop :=
  ∀ (s t : State) (tn : Turn) (rest : List Turn), s.turns = tn :: rest → step s = .next t →
    t.requesters.length = s.requesters.length
      ∧ ∀ r, r ≠ tn.requester → t.requesters[r]? = s.requesters[r]?

/-- R27, R190: no step writes a configuration register. -/
def Obligations.ConfigurationIsNeverWritten : Prop :=
  ∀ s t : State, step s = .next t → t.config = s.config

/-- R30: the history only grows. -/
def Obligations.HistoryOnlyGrows : Prop :=
  ∀ s t : State, step s = .next t → ∃ evs, t.hist = s.hist ++ evs

/-- R11, R184, R185: the fault mark is never cleared by a later step, and nothing follows a refusal. -/
def Obligations.MarksAreNeverCleared : Prop :=
  (∀ s t : State, step s = .next t → s.faultMark = true → t.faultMark = true)
    ∧ ∀ (s : State) (reason : RefusalReason), s.refusalMark = some reason → step s = .refused (.marked reason)

/-- R20: a requester with a `CH_REQUEST` outstanding issues and reads nothing: its port waits, and its result register
changes only when the request ends. -/
def Obligations.BusyRequesterIssuesNothing : Prop :=
  ∀ (s t : State) (r : Nat) (q : Requester), step s = .next t → s.requesters[r]? = some q → q.phase ≠ .idle →
    ∃ q', t.requesters[r]? = some q' ∧ q'.port = q.port ∧ q'.lastRead = q.lastRead
      ∧ (q'.phase ≠ .idle → q'.result = q.result)

/-- R29: the invariant of the block's state holds at every launch. -/
def Obligations.LaunchHasInvariant : Prop :=
  (∀ (cfg : Config) (n : Nat), (launch cfg n).Inv) ∧ State.reset.Inv

/-- R29, R23, R24: the invariant of the block's state is kept by every step: `LOCK[k] = Held(r)` exactly when requester `r`
is in `WR` or `RD` on a channel of domain `k`; the lock table stays canonical; every phase stays one of R23, with a
package the framer builds; every result stays one of R24's shapes; an unmarked state has a configuration R28 allows. -/
def Obligations.StepKeepsInvariant : Prop :=
  ∀ s t : State, s.Inv → step s = .next t → t.Inv

/-- R29: at most one requester holds a lock domain at a time. -/
def Obligations.AtMostOneHolder : Prop :=
  ∀ (s : State) (k r r' : Nat) (q q' : Requester), s.Inv → s.requesters[r]? = some q → s.requesters[r']? = some q' →
    q.phase.heldDomain? s.config = some k → q'.phase.heldDomain? s.config = some k → r = r'

/-- R57, R58, R146: the order of the history is kept by every step: in each lock domain the exchanges follow one another
without overlap, each is one `Acquire`, one `Tx`, an `Rx` exactly when the `Tx` outcome is
`Ok`, and one `Release`, all by one requester. -/
def Obligations.StepKeepsHistoryOrder : Prop :=
  ∀ s t : State, s.Inv → s.HistoryOrdered → step s = .next t → t.HistoryOrdered

/-- R57, R58: the empty history of a launch is ordered. -/
def Obligations.LaunchHistoryOrdered : Prop :=
  ∀ (cfg : Config) (n : Nat), (launch cfg n).HistoryOrdered ∧ (launch cfg n).TxFramed

/-- R72, R141: every package handed to the transport is one the framer builds, for the address of a channel of that line;
every step keeps it so. -/
def Obligations.StepKeepsTxFramed : Prop :=
  ∀ s t : State, s.Inv → s.TxFramed → step s = .next t → t.TxFramed

/-- R145: the lock is released in the same step in which a request that holds it ends, with its result written. -/
def Obligations.LockReleasedWhenRequestEnds : Prop :=
  ∀ (s t : State) (r k : Nat) (q q' : Requester), s.Inv → step s = .next t → s.requesters[r]? = some q →
    q.phase.heldDomain? s.config = some k → t.requesters[r]? = some q' → q'.phase = .idle →
    t.lock k = .free ∧ ∃ st, q'.result.status = some st

/-- R62, R141, R142, R143: a lock changes only by the step of the requester that takes it, which was waiting for the lock of
its channel's line, this one, while it was free, or of the requester that held it, which ends its request in that step. -/
def Obligations.LockChangesOnlyByItsHolder : Prop :=
  ∀ (s t : State) (k : Nat), s.Inv → step s = .next t → t.lock k ≠ s.lock k →
    ∃ tn rest q q', s.turns = tn :: rest ∧ s.requesters[tn.requester]? = some q
      ∧ t.requesters[tn.requester]? = some q'
      ∧ ((s.lock k = .free ∧ t.lock k = .held tn.requester
          ∧ ∃ c cmd payload tmo ch, q.phase = .acq c cmd payload tmo ∧ s.config.channels[c]? = some ch
            ∧ lockOf s.config ch.line = k)
        ∨ (s.lock k = .held tn.requester ∧ t.lock k = .free ∧ q'.phase = .idle))

/-- R60, R152: an `Rx` answer goes to the requester that held the lock of its line, which gets the result of that answer,
and to no other. -/
def Obligations.ResponseGoesToTheHolder : Prop :=
  ∀ (s t : State) (r line : Nat) (a : RxAnswer) (evs : List Event), s.Inv → step s = .next t →
    t.hist = s.hist ++ evs → Event.rx r line a ∈ evs →
    s.lock (lockOf s.config line) = .held r
      ∧ (t.requesters[r]?).map Requester.result = some (rxResult s.config.strictLength a)
      ∧ ∀ r', r' ≠ r → t.requesters[r']? = s.requesters[r']?

/-- R59, R192: a request moves only in its own lock domain: the turn of a requester with a request on channel `c` leaves
every other domain's lock and every event of another domain as it was. -/
def Obligations.OtherDomainsAreUntouched : Prop :=
  ∀ (s t : State) (tn : Turn) (rest : List Turn) (q : Requester) (c : Nat) (ch : Channel) (k : Nat),
    TurnOf s tn rest q → step s = .next t → s.config.channels[c]? = some ch → k ≠ lockOf s.config ch.line →
    ((∃ cmd payload tmo, q.phase = .acq c cmd payload tmo) ∨ q.phase.holding? = some c) →
    t.lock k = s.lock k
      ∧ ∀ x, exchangeAfter s.config k x t.hist = exchangeAfter s.config k x s.hist

/-- R185, R11: in a state with the invariant no step faults, and a step is refused only because the refusal mark is
set. -/
def Obligations.ReachableStepsNeverStop : Prop :=
  ∀ s : State, s.Inv →
    (∀ f, step s ≠ .fault f) ∧ ∀ x, step s = .refused x → ∃ reason, s.refusalMark = some reason ∧ x = .marked reason

/-- R20, R141, R214: a requester's turn changes the state, beyond the turn itself, exactly when the requester has an enabled
step, whatever the transport answers. A register read that waits on its port is such a step, though it may change only the
requester's side of the port (log entry 2); a turn without a step passes (log entry 14). -/
def Obligations.EnabledStepMoves : Prop :=
  ∀ (s : State) (tn : Turn) (rest : List Turn) (q : Requester), s.Inv → TurnOf s tn rest q →
    ∃ t, step s = .next t ∧ (t = s.beginTurn tn rest ↔ s.hasStep tn.requester = false)

/-- R214: no state with the invariant and without the refusal mark is stuck: whoever holds a lock that another waits for has
an enabled step; so while any request is outstanding, some requester has one. -/
def Obligations.NoUnmarkedStateIsStuck : Prop :=
  ∀ s : State, s.Inv → s.refusalMark = none →
    ¬ s.Stuck
      ∧ ∀ (r : Nat) (q : Requester), s.requesters[r]? = some q → q.phase ≠ .idle → ∃ r', s.hasStep r' = true

/-- R214: with every requester idle and no mark set the run is over: every lock is free. -/
def Obligations.IdleRunIsOver : Prop :=
  ∀ s : State, s.Inv → (∀ q ∈ s.requesters, q.phase = .idle) → s.faultMark = false → s.refusalMark = none → s.Over

/-- R8, D24: an answer longer than a set receive capacity is refused: the mark is set, nothing else changes, and no step
follows; log entry 11's reading of D24. -/
def Obligations.OverlongResponseIsRefused : Prop :=
  ∀ (s : State) (tn : Turn) (rest : List Turn) (q : Requester) (c : Nat) (tmo : Millis) (m : Bytes) (n : Nat),
    s.Inv → TurnOf s tn rest q → q.phase = .rd c tmo → tn.rx = .bytes m → s.config.rxCapacity = some n → n < m.length →
    step s = .next { s.beginTurn tn rest with refusalMark := some .responseTooLong }
      ∧ step { s.beginTurn tn rest with refusalMark := some .responseTooLong } = .refused (.marked .responseTooLong)

/-- R11, R184, R214: under the refusal mark the step is refused and no requester has one; the run is not over; and a
requester that waits for a held lock makes the state stuck, whoever holds it. -/
def Obligations.MarkedStateHasNoStep : Prop :=
  ∀ (s : State) (reason : RefusalReason), s.refusalMark = some reason →
    step s = .refused (.marked reason)
      ∧ (∀ r, s.hasStep r = false)
      ∧ ¬ s.Over
      ∧ ∀ (r h c : Nat) (q : Requester) (cmd : Byte) (payload : Bytes) (tmo : Millis) (ch : Channel),
          s.requesters[r]? = some q → q.phase = .acq c cmd payload tmo → s.config.channels[c]? = some ch →
          s.lock (lockOf s.config ch.line) = .held h → s.Stuck
end

