-- ==== Sys2Proof/Laws/Decode.lean ====
section
/-! SUPPORT. The fields of the operation word: packing fields into a word and reading them back, each field as an
arithmetic digit of the word's number, and what `decodeFields` answers, case by case. -/

namespace Sys2Proof

theorem opwOp_packWord (op addr cmd chan : Byte) : opwOp (packWord op addr cmd chan) = op := by
  ext i hi
  simp only [opwOp, packWord, BitVec.getElem_extractLsb', BitVec.getLsbD_append]
  simp [hi]

theorem opwAddr_packWord (op addr cmd chan : Byte) : opwAddr (packWord op addr cmd chan) = addr := by
  ext i hi
  simp only [opwAddr, packWord, BitVec.getElem_extractLsb', BitVec.getLsbD_append]
  simp [hi]

theorem opwCmd_packWord (op addr cmd chan : Byte) : opwCmd (packWord op addr cmd chan) = cmd := by
  ext i hi
  simp only [opwCmd, packWord, BitVec.getElem_extractLsb', BitVec.getLsbD_append]
  simp [hi, show ¬ 16 + i < 8 by omega, show ¬ 16 + i - 8 < 8 by omega, show 16 + i - 8 - 8 = i by omega]

theorem opwChan_packWord (op addr cmd chan : Byte) : opwChan (packWord op addr cmd chan) = chan := by
  ext i hi
  simp only [opwChan, packWord, BitVec.getElem_extractLsb', BitVec.getLsbD_append]
  simp [hi, show ¬ 24 + i < 8 by omega, show ¬ 24 + i - 8 < 8 by omega, show ¬ 24 + i - 8 - 8 < 8 by omega,
    show 24 + i - 8 - 8 - 8 = i by omega]

/-- Each field of a word is a base-256 digit of its number, `OP` the lowest (R78). -/
theorem toNat_opwOp (w : OpWord) : (opwOp w).toNat = w.toNat % 256 := by
  simp [opwOp, BitVec.extractLsb'_toNat]

theorem toNat_opwAddr (w : OpWord) : (opwAddr w).toNat = w.toNat / 256 % 256 := by
  simp [opwAddr, BitVec.extractLsb'_toNat, Nat.shiftRight_eq_div_pow]

theorem toNat_opwCmd (w : OpWord) : (opwCmd w).toNat = w.toNat / 65536 % 256 := by
  simp [opwCmd, BitVec.extractLsb'_toNat, Nat.shiftRight_eq_div_pow]

theorem toNat_opwChan (w : OpWord) : (opwChan w).toNat = w.toNat / 16777216 % 256 := by
  simp [opwChan, BitVec.extractLsb'_toNat, Nat.shiftRight_eq_div_pow]

/-- Two words with the same four fields are the same word (R78: the fields are the whole word). -/
theorem opWord_ext {w v : OpWord} (h0 : opwOp w = opwOp v) (h1 : opwAddr w = opwAddr v) (h2 : opwCmd w = opwCmd v)
    (h3 : opwChan w = opwChan v) : w = v := by
  have h0 := congrArg BitVec.toNat h0
  have h1 := congrArg BitVec.toNat h1
  have h2 := congrArg BitVec.toNat h2
  have h3 := congrArg BitVec.toNat h3
  rw [toNat_opwOp, toNat_opwOp] at h0
  rw [toNat_opwAddr, toNat_opwAddr] at h1
  rw [toNat_opwCmd, toNat_opwCmd] at h2
  rw [toNat_opwChan, toNat_opwChan] at h3
  have hw := w.isLt
  have hv := v.isLt
  apply BitVec.eq_of_toNat_eq
  omega

/-- A word is the packing of its own fields. -/
theorem packWord_fields (w : OpWord) : packWord (opwOp w) (opwAddr w) (opwCmd w) (opwChan w) = w :=
  opWord_ext (opwOp_packWord ..) (opwAddr_packWord ..) (opwCmd_packWord ..) (opwChan_packWord ..)

end Sys2Proof
end

