-- ==== Sys2Proof/Laws/State.lean ====
section
/-! SUPPORT. The small lemmas of the state updates of Machine/Ops.lean: one per field per update, true by definition, so
that no later proof unfolds a record update; and what a change of the current requester does to each record. -/

namespace Sys2Proof.Machine

variable (s : State)

@[simp] theorem State.record_config (e : Event) : (s.record e).config = s.config := rfl
@[simp] theorem State.record_requesters (e : Event) : (s.record e).requesters = s.requesters := rfl
@[simp] theorem State.record_locks (e : Event) : (s.record e).locks = s.locks := rfl
@[simp] theorem State.record_hist (e : Event) : (s.record e).hist = s.hist ++ [e] := rfl
@[simp] theorem State.record_faultMark (e : Event) : (s.record e).faultMark = s.faultMark := rfl
@[simp] theorem State.record_refusalMark (e : Event) : (s.record e).refusalMark = s.refusalMark := rfl
@[simp] theorem State.record_turns (e : Event) : (s.record e).turns = s.turns := rfl
@[simp] theorem State.record_current (e : Event) : (s.record e).current = s.current := rfl

@[simp] theorem State.hold_config (k : Nat) : (s.hold k).config = s.config := rfl
@[simp] theorem State.hold_requesters (k : Nat) : (s.hold k).requesters = s.requesters := rfl
@[simp] theorem State.hold_locks (k : Nat) : (s.hold k).locks = lockInsert k s.current s.locks := rfl
@[simp] theorem State.hold_hist (k : Nat) : (s.hold k).hist = s.hist := rfl
@[simp] theorem State.hold_faultMark (k : Nat) : (s.hold k).faultMark = s.faultMark := rfl
@[simp] theorem State.hold_refusalMark (k : Nat) : (s.hold k).refusalMark = s.refusalMark := rfl
@[simp] theorem State.hold_turns (k : Nat) : (s.hold k).turns = s.turns := rfl
@[simp] theorem State.hold_current (k : Nat) : (s.hold k).current = s.current := rfl

@[simp] theorem State.unlock_config (k : Nat) : (s.unlock k).config = s.config := rfl
@[simp] theorem State.unlock_requesters (k : Nat) : (s.unlock k).requesters = s.requesters := rfl
@[simp] theorem State.unlock_locks (k : Nat) : (s.unlock k).locks = lockErase k s.locks := rfl
@[simp] theorem State.unlock_hist (k : Nat) : (s.unlock k).hist = s.hist := rfl
@[simp] theorem State.unlock_faultMark (k : Nat) : (s.unlock k).faultMark = s.faultMark := rfl
@[simp] theorem State.unlock_refusalMark (k : Nat) : (s.unlock k).refusalMark = s.refusalMark := rfl
@[simp] theorem State.unlock_turns (k : Nat) : (s.unlock k).turns = s.turns := rfl
@[simp] theorem State.unlock_current (k : Nat) : (s.unlock k).current = s.current := rfl

@[simp] theorem State.updateCurrent_config (f : Requester → Requester) : (s.updateCurrent f).config = s.config := rfl
@[simp] theorem State.updateCurrent_requesters (f : Requester → Requester) :
    (s.updateCurrent f).requesters = s.requesters.modify s.current f := rfl
@[simp] theorem State.updateCurrent_locks (f : Requester → Requester) : (s.updateCurrent f).locks = s.locks := rfl
@[simp] theorem State.updateCurrent_hist (f : Requester → Requester) : (s.updateCurrent f).hist = s.hist := rfl
@[simp] theorem State.updateCurrent_faultMark (f : Requester → Requester) :
    (s.updateCurrent f).faultMark = s.faultMark := rfl
@[simp] theorem State.updateCurrent_refusalMark (f : Requester → Requester) :
    (s.updateCurrent f).refusalMark = s.refusalMark := rfl
@[simp] theorem State.updateCurrent_turns (f : Requester → Requester) : (s.updateCurrent f).turns = s.turns := rfl
@[simp] theorem State.updateCurrent_current (f : Requester → Requester) :
    (s.updateCurrent f).current = s.current := rfl

@[simp] theorem State.setPhase_config (p : Phase) : (s.setPhase p).config = s.config := rfl
@[simp] theorem State.setPhase_requesters (p : Phase) :
    (s.setPhase p).requesters = s.requesters.modify s.current fun q => { q with phase := p } := rfl
@[simp] theorem State.setPhase_locks (p : Phase) : (s.setPhase p).locks = s.locks := rfl
@[simp] theorem State.setPhase_hist (p : Phase) : (s.setPhase p).hist = s.hist := rfl
@[simp] theorem State.setPhase_faultMark (p : Phase) : (s.setPhase p).faultMark = s.faultMark := rfl
@[simp] theorem State.setPhase_refusalMark (p : Phase) : (s.setPhase p).refusalMark = s.refusalMark := rfl
@[simp] theorem State.setPhase_turns (p : Phase) : (s.setPhase p).turns = s.turns := rfl
@[simp] theorem State.setPhase_current (p : Phase) : (s.setPhase p).current = s.current := rfl

@[simp] theorem State.complete_config (res : Result) : (s.complete res).config = s.config := rfl
@[simp] theorem State.complete_requesters (res : Result) :
    (s.complete res).requesters = s.requesters.modify s.current fun q => { q with phase := .idle, result := res } := rfl
@[simp] theorem State.complete_locks (res : Result) : (s.complete res).locks = s.locks := rfl
@[simp] theorem State.complete_hist (res : Result) : (s.complete res).hist = s.hist := rfl
@[simp] theorem State.complete_faultMark (res : Result) : (s.complete res).faultMark = s.faultMark := rfl
@[simp] theorem State.complete_refusalMark (res : Result) : (s.complete res).refusalMark = s.refusalMark := rfl
@[simp] theorem State.complete_turns (res : Result) : (s.complete res).turns = s.turns := rfl
@[simp] theorem State.complete_current (res : Result) : (s.complete res).current = s.current := rfl

@[simp] theorem State.raise_config (st : Status) : (s.raise st).config = s.config := rfl
@[simp] theorem State.raise_requesters (st : Status) :
    (s.raise st).requesters = s.requesters.modify s.current fun q => { q with phase := .idle, result := Result.error st } := rfl
@[simp] theorem State.raise_locks (st : Status) : (s.raise st).locks = s.locks := rfl
@[simp] theorem State.raise_hist (st : Status) : (s.raise st).hist = s.hist := rfl
@[simp] theorem State.raise_faultMark (st : Status) : (s.raise st).faultMark = s.faultMark := rfl
@[simp] theorem State.raise_refusalMark (st : Status) : (s.raise st).refusalMark = s.refusalMark := rfl
@[simp] theorem State.raise_turns (st : Status) : (s.raise st).turns = s.turns := rfl
@[simp] theorem State.raise_current (st : Status) : (s.raise st).current = s.current := rfl

@[simp] theorem State.refuse_config (reason : RefusalReason) : (s.refuse reason).config = s.config := rfl
@[simp] theorem State.refuse_requesters (reason : RefusalReason) : (s.refuse reason).requesters = s.requesters := rfl
@[simp] theorem State.refuse_locks (reason : RefusalReason) : (s.refuse reason).locks = s.locks := rfl
@[simp] theorem State.refuse_hist (reason : RefusalReason) : (s.refuse reason).hist = s.hist := rfl
@[simp] theorem State.refuse_faultMark (reason : RefusalReason) : (s.refuse reason).faultMark = s.faultMark := rfl
@[simp] theorem State.refuse_refusalMark (reason : RefusalReason) : (s.refuse reason).refusalMark = some reason := rfl
@[simp] theorem State.refuse_turns (reason : RefusalReason) : (s.refuse reason).turns = s.turns := rfl
@[simp] theorem State.refuse_current (reason : RefusalReason) : (s.refuse reason).current = s.current := rfl

@[simp] theorem State.markFault_config : (s.markFault).config = s.config := rfl
@[simp] theorem State.markFault_requesters : (s.markFault).requesters = s.requesters := rfl
@[simp] theorem State.markFault_locks : (s.markFault).locks = s.locks := rfl
@[simp] theorem State.markFault_hist : (s.markFault).hist = s.hist := rfl
@[simp] theorem State.markFault_faultMark : (s.markFault).faultMark = true := rfl
@[simp] theorem State.markFault_refusalMark : (s.markFault).refusalMark = s.refusalMark := rfl
@[simp] theorem State.markFault_turns : (s.markFault).turns = s.turns := rfl
@[simp] theorem State.markFault_current : (s.markFault).current = s.current := rfl

@[simp] theorem State.release_config (k : Nat) : (s.release k).config = s.config := rfl
@[simp] theorem State.release_requesters (k : Nat) : (s.release k).requesters = s.requesters := rfl
@[simp] theorem State.release_locks (k : Nat) : (s.release k).locks = lockErase k s.locks := rfl
@[simp] theorem State.release_hist (k : Nat) : (s.release k).hist = s.hist ++ [.release s.current k] := rfl
@[simp] theorem State.release_faultMark (k : Nat) : (s.release k).faultMark = s.faultMark := rfl
@[simp] theorem State.release_refusalMark (k : Nat) : (s.release k).refusalMark = s.refusalMark := rfl
@[simp] theorem State.release_turns (k : Nat) : (s.release k).turns = s.turns := rfl
@[simp] theorem State.release_current (k : Nat) : (s.release k).current = s.current := rfl

@[simp] theorem State.completeOp_config (opw : OpWord) (res : Result) :
    (s.completeOp opw res).config = s.config := rfl
@[simp] theorem State.completeOp_requesters (opw : OpWord) (res : Result) :
    (s.completeOp opw res).requesters = s.requesters.modify s.current fun q => { q with phase := .idle, result := res } := rfl
@[simp] theorem State.completeOp_locks (opw : OpWord) (res : Result) : (s.completeOp opw res).locks = s.locks := rfl
@[simp] theorem State.completeOp_hist (opw : OpWord) (res : Result) :
    (s.completeOp opw res).hist = s.hist ++ [.op s.current opw res] := rfl
@[simp] theorem State.completeOp_faultMark (opw : OpWord) (res : Result) :
    (s.completeOp opw res).faultMark = s.faultMark := rfl
@[simp] theorem State.completeOp_refusalMark (opw : OpWord) (res : Result) :
    (s.completeOp opw res).refusalMark = s.refusalMark := rfl
@[simp] theorem State.completeOp_turns (opw : OpWord) (res : Result) : (s.completeOp opw res).turns = s.turns := rfl
@[simp] theorem State.completeOp_current (opw : OpWord) (res : Result) :
    (s.completeOp opw res).current = s.current := rfl

@[simp] theorem State.illegal_config (opw : OpWord) : (s.illegal opw).config = s.config := rfl
@[simp] theorem State.illegal_requesters (opw : OpWord) :
    (s.illegal opw).requesters = s.requesters.modify s.current fun q => { q with phase := .idle, result := Result.error .illegalOperation } := rfl
@[simp] theorem State.illegal_locks (opw : OpWord) : (s.illegal opw).locks = s.locks := rfl
@[simp] theorem State.illegal_hist (opw : OpWord) :
    (s.illegal opw).hist = s.hist ++ [.op s.current opw (Result.error .illegalOperation)] := rfl
@[simp] theorem State.illegal_faultMark (opw : OpWord) : (s.illegal opw).faultMark = s.faultMark := rfl
@[simp] theorem State.illegal_refusalMark (opw : OpWord) : (s.illegal opw).refusalMark = s.refusalMark := rfl
@[simp] theorem State.illegal_turns (opw : OpWord) : (s.illegal opw).turns = s.turns := rfl
@[simp] theorem State.illegal_current (opw : OpWord) : (s.illegal opw).current = s.current := rfl

@[simp] theorem State.deliver_config (v : FieldValue) : (s.deliver v).config = s.config := rfl
@[simp] theorem State.deliver_requesters (v : FieldValue) :
    (s.deliver v).requesters = s.requesters.modify s.current fun q => { q with lastRead := some v } := rfl
@[simp] theorem State.deliver_locks (v : FieldValue) : (s.deliver v).locks = s.locks := rfl
@[simp] theorem State.deliver_hist (v : FieldValue) : (s.deliver v).hist = s.hist := rfl
@[simp] theorem State.deliver_faultMark (v : FieldValue) : (s.deliver v).faultMark = s.faultMark := rfl
@[simp] theorem State.deliver_refusalMark (v : FieldValue) : (s.deliver v).refusalMark = s.refusalMark := rfl
@[simp] theorem State.deliver_turns (v : FieldValue) : (s.deliver v).turns = s.turns := rfl
@[simp] theorem State.deliver_current (v : FieldValue) : (s.deliver v).current = s.current := rfl

@[simp] theorem State.popPort_config : (s.popPort).config = s.config := rfl
@[simp] theorem State.popPort_requesters :
    (s.popPort).requesters = s.requesters.modify s.current fun q => { q with port := q.port.tail } := rfl
@[simp] theorem State.popPort_locks : (s.popPort).locks = s.locks := rfl
@[simp] theorem State.popPort_hist : (s.popPort).hist = s.hist := rfl
@[simp] theorem State.popPort_faultMark : (s.popPort).faultMark = s.faultMark := rfl
@[simp] theorem State.popPort_refusalMark : (s.popPort).refusalMark = s.refusalMark := rfl
@[simp] theorem State.popPort_turns : (s.popPort).turns = s.turns := rfl
@[simp] theorem State.popPort_current : (s.popPort).current = s.current := rfl

@[simp] theorem State.beginTurn_config (t : Turn) (rest : List Turn) : (s.beginTurn t rest).config = s.config := rfl
@[simp] theorem State.beginTurn_requesters (t : Turn) (rest : List Turn) :
    (s.beginTurn t rest).requesters = s.requesters := rfl
@[simp] theorem State.beginTurn_locks (t : Turn) (rest : List Turn) : (s.beginTurn t rest).locks = s.locks := rfl
@[simp] theorem State.beginTurn_hist (t : Turn) (rest : List Turn) : (s.beginTurn t rest).hist = s.hist := rfl
@[simp] theorem State.beginTurn_faultMark (t : Turn) (rest : List Turn) :
    (s.beginTurn t rest).faultMark = s.faultMark := rfl
@[simp] theorem State.beginTurn_refusalMark (t : Turn) (rest : List Turn) :
    (s.beginTurn t rest).refusalMark = s.refusalMark := rfl
@[simp] theorem State.beginTurn_turns (t : Turn) (rest : List Turn) : (s.beginTurn t rest).turns = rest := rfl
@[simp] theorem State.beginTurn_current (t : Turn) (rest : List Turn) :
    (s.beginTurn t rest).current = t.requester := rfl

/-- The record of the current requester after a change of it. -/
theorem getElem?_updateCurrent_current (f : Requester → Requester) :
    (s.updateCurrent f).requesters[s.current]? = (s.requesters[s.current]?).map f := by
  simp

/-- The record of any other requester after a change of the current one. -/
theorem getElem?_updateCurrent_of_ne (f : Requester → Requester) {r : Nat} (h : r ≠ s.current) :
    (s.updateCurrent f).requesters[r]? = s.requesters[r]? := by
  simp [Ne.symm h]

/-- Changing the current requester twice is changing it once by the composition. -/
theorem updateCurrent_updateCurrent (f g : Requester → Requester) :
    (s.updateCurrent f).updateCurrent g = s.updateCurrent (g ∘ f) := by
  simp [State.updateCurrent, List.modify_modify_eq]

/-- The reset configuration is not refused (R28). -/
theorem configRefused_resetConfig : configRefused resetConfig = false := by decide

/-- Reset is the launch of the reset configuration with one requester. -/
theorem reset_eq_launch : State.reset = launch resetConfig 1 := by
  simp only [launch, configRefused_resetConfig]
  rfl

end Sys2Proof.Machine
end

