-- ==== Sys2Proof/Laws/Locks.lean ====
section
/-! SUPPORT. The laws of the lock table: what each domain holds after one is taken or freed, and that the canonical form
is kept. -/

namespace Sys2Proof.Machine

/-- After `LOCK[k] <- Held(r)`, domain `k` is held by `r` and every other domain holds what it held. -/
theorem lockLookup_lockInsert (k r j : Nat) (l : List (Nat × Nat)) :
    lockLookup (lockInsert k r l) j = if j = k then .held r else lockLookup l j := by
  induction l with
  | nil => simp [lockInsert, lockLookup, eq_comm]
  | cons e rest ih =>
    unfold lockInsert
    split_ifs with h1 h2 <;> simp only [lockLookup, ih] <;> split_ifs <;> first | rfl | omega

/-- After `LOCK[k] <- Free`, domain `k` is free and every other domain holds what it held. -/
theorem lockLookup_lockErase (k j : Nat) (l : List (Nat × Nat)) :
    lockLookup (lockErase k l) j = if j = k then .free else lockLookup l j := by
  induction l with
  | nil => simp [lockErase, lockLookup]
  | cons e rest ih =>
    unfold lockErase
    split_ifs with h1 h2 <;> simp only [lockLookup, ih] <;> split_ifs <;> first | rfl | omega

theorem mem_lockInsert {k r : Nat} {l : List (Nat × Nat)} {e : Nat × Nat} (h : e ∈ lockInsert k r l) :
    e = (k, r) ∨ e ∈ l := by
  induction l with
  | nil => simpa [lockInsert] using h
  | cons a rest ih =>
    unfold lockInsert at h
    split_ifs at h with h1 h2
    · simpa using h
    · rcases List.mem_cons.1 h with h | h
      · exact .inl h
      · exact .inr (List.mem_cons_of_mem _ h)
    · rcases List.mem_cons.1 h with h | h
      · exact .inr (h ▸ List.mem_cons_self)
      · exact (ih h).imp_right (List.mem_cons_of_mem _)

theorem mem_of_mem_lockErase {k : Nat} {l : List (Nat × Nat)} {e : Nat × Nat} (h : e ∈ lockErase k l) :
    e ∈ l := by
  induction l with
  | nil => simp [lockErase] at h
  | cons a rest ih =>
    unfold lockErase at h
    split_ifs at h with h1
    · exact List.mem_cons_of_mem _ (ih h)
    · rcases List.mem_cons.1 h with h | h
      · exact h ▸ List.mem_cons_self
      · exact List.mem_cons_of_mem _ (ih h)

/-- Taking a lock keeps the table canonical. -/
theorem locksWf_lockInsert (k r : Nat) {l : List (Nat × Nat)} (h : LocksWf l) : LocksWf (lockInsert k r l) := by
  induction l with
  | nil => simp [lockInsert, LocksWf]
  | cons a rest ih =>
    have ⟨ha, hr⟩ := List.pairwise_cons.1 h
    unfold lockInsert
    split_ifs with h1 h2
    · refine List.pairwise_cons.2 ⟨fun e he => ?_, h⟩
      rcases List.mem_cons.1 he with rfl | he
      · exact h1
      · exact lt_trans h1 (ha e he)
    · exact List.pairwise_cons.2 ⟨fun e he => h2 ▸ ha e he, hr⟩
    · refine List.pairwise_cons.2 ⟨fun e he => ?_, ih hr⟩
      rcases mem_lockInsert he with rfl | he
      · show a.1 < k
        omega
      · exact ha e he

/-- Freeing a lock keeps the table canonical. -/
theorem locksWf_lockErase (k : Nat) {l : List (Nat × Nat)} (h : LocksWf l) : LocksWf (lockErase k l) := by
  induction l with
  | nil => exact h
  | cons a rest ih =>
    have ⟨ha, hr⟩ := List.pairwise_cons.1 h
    unfold lockErase
    split_ifs with h1
    · exact ih hr
    · exact List.pairwise_cons.2 ⟨fun e he => ha e (mem_of_mem_lockErase he), ih hr⟩

/-- `LOCK[j]` depends on the lock table alone. -/
theorem lock_congr {s t : State} (h : t.locks = s.locks) (j : Nat) : t.lock j = s.lock j := by
  simp [State.lock, h]

/-- `LOCK[j]` after the current requester takes `LOCK[k]`. -/
@[simp] theorem lock_hold (s : State) (k j : Nat) :
    (s.hold k).lock j = if j = k then .held s.current else s.lock j :=
  lockLookup_lockInsert k s.current j s.locks

/-- `LOCK[j]` after `LOCK[k]` is freed. -/
@[simp] theorem lock_unlock (s : State) (k j : Nat) :
    (s.unlock k).lock j = if j = k then .free else s.lock j :=
  lockLookup_lockErase k j s.locks

/-- `LOCK[j]` after a release of domain `k`. -/
@[simp] theorem lock_release (s : State) (k j : Nat) :
    (s.release k).lock j = if j = k then .free else s.lock j :=
  lockLookup_lockErase k j s.locks

@[simp] theorem lock_record (s : State) (e : Event) (j : Nat) : (s.record e).lock j = s.lock j := rfl
@[simp] theorem lock_updateCurrent (s : State) (f : Requester → Requester) (j : Nat) :
    (s.updateCurrent f).lock j = s.lock j := rfl
@[simp] theorem lock_setPhase (s : State) (p : Phase) (j : Nat) : (s.setPhase p).lock j = s.lock j := rfl
@[simp] theorem lock_complete (s : State) (res : Result) (j : Nat) : (s.complete res).lock j = s.lock j := rfl
@[simp] theorem lock_raise (s : State) (st : Status) (j : Nat) : (s.raise st).lock j = s.lock j := rfl
@[simp] theorem lock_refuse (s : State) (m : RefusalReason) (j : Nat) : (s.refuse m).lock j = s.lock j := rfl
@[simp] theorem lock_markFault (s : State) (j : Nat) : s.markFault.lock j = s.lock j := rfl
@[simp] theorem lock_completeOp (s : State) (w : OpWord) (res : Result) (j : Nat) :
    (s.completeOp w res).lock j = s.lock j := rfl
@[simp] theorem lock_illegal (s : State) (w : OpWord) (j : Nat) : (s.illegal w).lock j = s.lock j := rfl
@[simp] theorem lock_deliver (s : State) (v : FieldValue) (j : Nat) : (s.deliver v).lock j = s.lock j := rfl
@[simp] theorem lock_popPort (s : State) (j : Nat) : s.popPort.lock j = s.lock j := rfl
@[simp] theorem lock_beginTurn (s : State) (t : Turn) (rest : List Turn) (j : Nat) :
    (s.beginTurn t rest).lock j = s.lock j := rfl

end Sys2Proof.Machine
end

