-- ==== Sys2Proof/Laws/Wire.lean ====
section
/-! SUPPORT. The laws of the wire format: the checksum as arithmetic on numbers, the length field back and forth, and
what parsing answers by the form of the stream. -/

namespace Sys2Proof.Machine

/-- The sum of a stream's bytes as a number, before it is reduced (00_scope R10). -/
theorem toNat_sum8 (s : Bytes) : (sum8 s).toNat = (s.map BitVec.toNat).sum % 256 := by
  simp [sum8, BitVec.toNat_ofNat]

theorem toNat_neg8 (x : Byte) : (neg8 x).toNat = (256 - x.toNat) % 256 := by
  simp [neg8, BitVec.toNat_ofNat]

theorem toNat_chk (s : Bytes) : (chk s).toNat = (256 - (s.map BitVec.toNat).sum % 256) % 256 := by
  rw [chk, toNat_neg8, toNat_sum8]

/-- A byte is the checksum of a stream exactly when it brings the sum to 0 mod 256. -/
theorem chk_eq_iff (s : Bytes) (c : Byte) : chk s = c ↔ ((s.map BitVec.toNat).sum + c.toNat) % 256 = 0 := by
  rw [← BitVec.toNat_inj, toNat_chk]
  have := c.isLt
  omega

/-- The checksum check of a stream whose last byte is named. -/
theorem verify_concat (s : Bytes) (c : Byte) : verify (s ++ [c]) = (chk s == c) := by
  simp [verify]

theorem verify_nil : verify [] = false := rfl

theorem toNat_unbe16 (h l : Byte) : (unbe16 h l).toNat = h.toNat * 256 + l.toNat := by
  have := h.isLt
  have := l.isLt
  simp only [unbe16, BitVec.toNat_ofNat]
  omega

/-- The length field written for `n` is read back as `n` (00_scope R10, 30_encoding R73). -/
theorem unbe16_be16 {n : Nat} (h : n < 65536) :
    (unbe16 (BitVec.ofNat 8 (n / 256)) (BitVec.ofNat 8 n)).toNat = n := by
  rw [toNat_unbe16]
  simp only [BitVec.toNat_ofNat]
  omega

theorem length_msgBytes (cmd : Byte) (payload : Bytes) : (msgBytes cmd payload).length = payload.length + 3 := by
  simp [msgBytes, be16]

theorem length_pkgBytes (addr cmd : Byte) (payload : Bytes) :
    (pkgBytes addr cmd payload).length = payload.length + 5 := by
  simp [pkgBytes, pkgBody, length_msgBytes]

/-- A package written out byte by byte (30_encoding R72). -/
theorem pkgBytes_eq (addr cmd : Byte) (payload : Bytes) :
    pkgBytes addr cmd payload =
      addr :: cmd :: BitVec.ofNat 8 (payload.length / 256) :: BitVec.ofNat 8 payload.length ::
        (payload ++ [chk (pkgBody addr cmd payload)]) := by
  simp [pkgBytes, pkgBody, msgBytes, be16]

/-- A stream of fewer than 3 bytes is no Message (40_framer R104). -/
theorem parseMsg_short {strict : Bool} {m : Bytes} (h : m.length < 3) :
    parseMsg strict m = .error .messageTooShort := by
  match m, h with
  | [], _ => rfl
  | [_], _ => rfl
  | [_, _], _ => rfl

theorem parseMsg_cons (strict : Bool) (cmd hi lo : Byte) (payload : Bytes) :
    parseMsg strict (cmd :: hi :: lo :: payload) =
      if strict && (unbe16 hi lo).toNat != payload.length then .error .lengthMismatch
      else .ok { cmd := cmd, size := unbe16 hi lo, payload := payload } := rfl

/-- A stream of at least 3 bytes, taken apart. -/
theorem exists_cons3 {m : Bytes} (h : 3 ≤ m.length) : ∃ a b c rest, m = a :: b :: c :: rest := by
  match m, h with
  | a :: b :: c :: rest, _ => exact ⟨a, b, c, rest, rfl⟩

/-- A stream of at least 5 bytes is an address, a command, two length bytes, a payload and a checksum. -/
theorem exists_package_form {p : Bytes} (h : 5 ≤ p.length) :
    ∃ addr cmd hi lo payload c, p = addr :: cmd :: hi :: lo :: (payload ++ [c]) := by
  match p, h with
  | a :: b :: c :: d :: e :: rest, _ =>
    refine ⟨a, b, c, d, (e :: rest).dropLast, (e :: rest).getLast (by simp), ?_⟩
    rw [List.dropLast_append_getLast]

theorem payloadTooLong_iff (payload : Bytes) : payloadTooLong payload = true ↔ 65535 < payload.length :=
  decide_eq_true_iff

theorem payloadTooLong_eq_false_iff (payload : Bytes) : payloadTooLong payload = false ↔ payload.length ≤ 65535 :=
  decide_eq_false_iff_not.trans Nat.not_lt

/-- What `PKG_PARSE` answers to a stream taken apart by its fields. -/
theorem pkgParseResult_form (strict : Bool) (addr cmd hi lo c : Byte) (payload : Bytes) :
    pkgParseResult strict (addr :: cmd :: hi :: lo :: (payload ++ [c])) =
      if verify (addr :: cmd :: hi :: lo :: (payload ++ [c])) = false then Result.error .checksumError
      else if strict = true ∧ (unbe16 hi lo).toNat ≠ payload.length then Result.error .lengthMismatch
      else
        { Result.unwritten with
          status := some .ok
          addr := some addr
          cmd := some cmd
          size := some (unbe16 hi lo)
          payload := some payload
          checksum := some c } := by
  have hd : (List.drop 1 (addr :: cmd :: hi :: lo :: (payload ++ [c]))).dropLast = cmd :: hi :: lo :: payload := by
    have : cmd :: hi :: lo :: (payload ++ [c]) = (cmd :: hi :: lo :: payload) ++ [c] := by simp
    rw [List.drop_succ_cons, List.drop_zero, this, List.dropLast_concat]
  have hl : (addr :: cmd :: hi :: lo :: (payload ++ [c])).getLast? = some c := by
    have : addr :: cmd :: hi :: lo :: (payload ++ [c]) = (addr :: cmd :: hi :: lo :: payload) ++ [c] := by simp
    rw [this, List.getLast?_concat]
  have hn : ¬ (addr :: cmd :: hi :: lo :: (payload ++ [c])).length < minPackage := by simp [minPackage]
  unfold pkgParseResult
  rw [if_neg hn, hd, hl, parseMsg_cons]
  cases verify (addr :: cmd :: hi :: lo :: (payload ++ [c])) <;> cases strict <;> simp
  split_ifs <;> rfl

theorem pkgParseResult_short (strict : Bool) {p : Bytes} (h : p.length < 5) :
    pkgParseResult strict p = Result.error .packageTooShort := by
  simp [pkgParseResult, minPackage, h]

end Sys2Proof.Machine
end

