-- ==== Sys2Proof/Laws/Step.lean ====
section
/-! SUPPORT. Everything one step can do, said once: `Move` lists the changes a turn can make, one constructor per kind of
requester step, and `step_cases` says that a step that answers a next state is one of them. Proofs over steps are a case
analysis on `Move`, not an unfolding of the step function. -/

namespace Sys2Proof.Machine

/-- `exec` is asked to issue an operation by a requester that exists and is idle. -/
theorem issued_eq_next_iff {s t u : State} :
    issued s t = .next u ↔ (∃ q, s.requesters[s.current]? = some q ∧ q.phase = .idle) ∧ u = t := by
  unfold issued State.currentRequester?
  constructor
  · intro h
    split at h
    · cases h
    · next q hq =>
      split at h
      · next hi => cases h; exact ⟨⟨q, hq, hi⟩, rfl⟩
      · cases h
  · rintro ⟨⟨q, hq, hi⟩, rfl⟩
    simp [hq, hi]

theorem issued_of_issuing {s : State} {q : Requester} (h : Issuing s q) (t : State) : issued s t = .next t :=
  issued_eq_next_iff.2 ⟨⟨q, h.1, h.2⟩, rfl⟩

/-- The ways one issued operation can change the state (40_framer R100, 60_exceptions R184, 41_channel R140,
30_encoding R83). -/
inductive IssueMove (s : State) : State → Prop where
  /-- A framer operation or an illegal word writes its result and one event. -/
  | op (opw : OpWord) (res : Result) (legal : res.Legal) : IssueMove s (s.completeOp opw res)
  /-- `PKG_BUILD` refuses its address. -/
  | refuse : IssueMove s (s.refuse .addressOutOfRange)
  /-- `CH_REQUEST` refuses its payload with a status. -/
  | tooLong : IssueMove s (s.raise .payloadTooLong)
  /-- `CH_REQUEST` begins to wait for its lock. -/
  | request (c : Nat) (cmd : Byte) (payload : Bytes) (tmo : Millis) (hc : c < numChannels s.config)
      (hp : payload.length ≤ maxPayload) : IssueMove s (s.setPhase (.acq c cmd payload tmo))

theorem legal_error (st : Status) : (Result.error st).Legal := by
  by_cases h : st = .ok
  · exact .inr (.inl (by rw [h]; rfl))
  · exact .inr (.inr ⟨st, h, rfl⟩)

theorem legal_ok {res : Result} (h : res.status = some .ok) : res.Legal := .inr (.inl h)

theorem legal_msgBuildResult (cmd : Byte) (payload : Bytes) : (msgBuildResult cmd payload).Legal := by
  unfold msgBuildResult
  split
  · exact legal_error _
  · exact legal_ok rfl

theorem legal_msgParseResult (strict : Bool) (m : Bytes) : (msgParseResult strict m).Legal := by
  unfold msgParseResult
  split
  · exact legal_error _
  · exact legal_ok rfl

theorem legal_pkgBuildResult (addr cmd : Byte) (payload : Bytes) : (pkgBuildResult addr cmd payload).Legal := by
  unfold pkgBuildResult
  split
  · exact legal_error _
  · exact legal_ok rfl

theorem legal_pkgParseResult (strict : Bool) (p : Bytes) : (pkgParseResult strict p).Legal := by
  unfold pkgParseResult
  split
  · exact legal_error _
  · split
    · exact legal_error _
    · split
      · exact legal_error _
      · exact legal_ok rfl

/-- The result of parsing a package always carries a status. -/
theorem exists_status_pkgParseResult (strict : Bool) (p : Bytes) :
    ∃ st, (pkgParseResult strict p).status = some st := by
  unfold pkgParseResult
  split
  · exact ⟨_, rfl⟩
  · split
    · exact ⟨_, rfl⟩
    · split <;> exact ⟨_, rfl⟩

/-- The result of a response is an error with its status only, or `OK` (41_channel R144). -/
theorem legal_rxResult (strict : Bool) (a : RxAnswer) : (rxResult strict a).Legal := by
  unfold rxResult
  split
  · exact legal_error _
  · exact legal_error _
  · next s =>
    split
    · exact legal_error _
    · obtain ⟨st, hst⟩ := exists_status_pkgParseResult strict s
      dsimp only
      split
      · exact legal_ok rfl
      · rw [hst]
        exact legal_error st

/-- Issuing an operation makes one of the moves of `IssueMove`, by an idle requester. -/
theorem exec_cases {i : Instr} {s t : State} (h : exec i s = .next t) :
    (∃ q, Issuing s q) ∧ IssueMove s t := by
  cases i with
  | msgBuild cmd payload =>
    obtain ⟨hq, rfl⟩ := issued_eq_next_iff.1 h
    exact ⟨hq, .op _ _ (legal_msgBuildResult ..)⟩
  | msgParse m =>
    obtain ⟨hq, rfl⟩ := issued_eq_next_iff.1 h
    exact ⟨hq, .op _ _ (legal_msgParseResult ..)⟩
  | pkgBuild addr cmd payload =>
    simp only [exec, execPkgBuild] at h
    split at h
    · obtain ⟨hq, rfl⟩ := issued_eq_next_iff.1 h
      exact ⟨hq, .refuse⟩
    · obtain ⟨hq, rfl⟩ := issued_eq_next_iff.1 h
      exact ⟨hq, .op _ _ (legal_pkgBuildResult ..)⟩
  | pkgParse p =>
    obtain ⟨hq, rfl⟩ := issued_eq_next_iff.1 h
    exact ⟨hq, .op _ _ (legal_pkgParseResult ..)⟩
  | chkCalc p =>
    obtain ⟨hq, rfl⟩ := issued_eq_next_iff.1 h
    exact ⟨hq, .op _ _ (legal_ok rfl)⟩
  | chkVerify p =>
    obtain ⟨hq, rfl⟩ := issued_eq_next_iff.1 h
    exact ⟨hq, .op _ _ (legal_ok rfl)⟩
  | chRequest chan cmd payload tmo =>
    simp only [exec, execChRequest] at h
    split at h
    · obtain ⟨hq, rfl⟩ := issued_eq_next_iff.1 h
      exact ⟨hq, .op _ _ (legal_error _)⟩
    · next hc =>
      split at h
      · obtain ⟨hq, rfl⟩ := issued_eq_next_iff.1 h
        exact ⟨hq, .tooLong⟩
      · next hp =>
        obtain ⟨hq, rfl⟩ := issued_eq_next_iff.1 h
        exact ⟨hq, .request _ _ _ _ (Nat.lt_of_not_le hc)
          ((payloadTooLong_eq_false_iff payload).1 (by simpa using hp))⟩

/-- The ways the turn `tn` of requester `q` can change the state, `q` being the current requester (10_state R20,
41_channel R140 to R143, 60_exceptions R185). -/
inductive Move (tn : Turn) (q : Requester) (s : State) : State → Prop where
  /-- No step: an idle requester with nothing to do. -/
  | rest (hp : q.phase = .idle) (hport : q.port = []) : Move tn q s s
  /-- No step: a requester whose lock is held (R141). -/
  | wait (c : Nat) (cmd : Byte) (payload : Bytes) (tmo : Millis) (rt : Route)
      (hp : q.phase = .acq c cmd payload tmo) (hr : route s.config c = some rt) (hl : s.lock rt.domain ≠ .free) :
      Move tn q s s
  /-- An idle requester's port sends an operation. -/
  | issue (hp : q.phase = .idle) (rq : Request) (hport : q.port.head? = some (.issue rq)) {t : State}
      (h : IssueMove s.popPort t) : Move tn q s t
  /-- An idle requester reads a written field. -/
  | read (hp : q.phase = .idle) (f : ResultField) (v : FieldValue) (hport : q.port.head? = some (.read f))
      (hv : readField q.result f = some v) :
      Move tn q s (s.popPort.deliver v)
  /-- An idle requester reads an unwritten field. -/
  | readUnwritten (hp : q.phase = .idle) (f : ResultField) (hport : q.port.head? = some (.read f))
      (hv : readField q.result f = none) : Move tn q s s.popPort.markFault
  /-- An idle requester reads a configuration register. -/
  | readConfig (hp : q.phase = .idle) (x : ConfigRegister) (v : FieldValue)
      (hport : q.port.head? = some (.readConfig x)) (hv : readConfigRegister s.config x = some v) :
      Move tn q s (s.popPort.deliver v)
  /-- An idle requester names a configuration register the block does not have. -/
  | readNoConfig (hp : q.phase = .idle) (x : ConfigRegister) (hport : q.port.head? = some (.readConfig x))
      (hv : readConfigRegister s.config x = none) : Move tn q s s.popPort
  /-- R141: the lock was free. -/
  | acquire (c : Nat) (cmd : Byte) (payload : Bytes) (tmo : Millis) (rt : Route)
      (hp : q.phase = .acq c cmd payload tmo) (hr : route s.config c = some rt) (hl : s.lock rt.domain = .free) :
      Move tn q s (((s.hold rt.domain).record (.acquire s.current rt.domain)).setPhase
        (.wr c (pkgBytes rt.address cmd payload) tmo))
  /-- R142: the write succeeded. -/
  | written (c : Nat) (pkg : Bytes) (tmo : Millis) (rt : Route) (hp : q.phase = .wr c pkg tmo)
      (hr : route s.config c = some rt) (hw : tn.tx = .ok) :
      Move tn q s ((s.record (.tx s.current rt.line pkg tn.tx)).setPhase (.rd c tmo))
  /-- R142: the write failed. -/
  | writeFailed (c : Nat) (pkg : Bytes) (tmo : Millis) (rt : Route) (st : Status) (hp : q.phase = .wr c pkg tmo)
      (hr : route s.config c = some rt) (hw : txFailure tn.tx = some st) :
      Move tn q s (((s.record (.tx s.current rt.line pkg tn.tx)).release rt.domain).raise st)
  /-- R143: the answer was read. -/
  | answered (c : Nat) (tmo : Millis) (rt : Route) (hp : q.phase = .rd c tmo) (hr : route s.config c = some rt)
      (hf : rxFits s.config.rxCapacity tn.rx = true) :
      Move tn q s (((s.record (.rx s.current rt.line tn.rx)).release rt.domain).complete
        (rxResult s.config.strictLength tn.rx))
  /-- D24: the answer is longer than the receive path holds. -/
  | tooLong (c : Nat) (tmo : Millis) (hp : q.phase = .rd c tmo) (hf : rxFits s.config.rxCapacity tn.rx = false) :
      Move tn q s (s.refuse .responseTooLong)

/-- An illegal word makes one of the moves of `IssueMove` too. -/
theorem illegal_move (s : State) (opw : OpWord) : IssueMove s (s.illegal opw) := .op _ _ (legal_error _)

/-- What the turn of requester `q` can do. -/
theorem requesterStep_cases {tn : Turn} {q : Requester} {s t : State} (h : requesterStep tn q s = .next t) :
    Move tn q s t := by
  unfold requesterStep at h
  split at h
  · next hp =>
    unfold portStep at h
    split at h
    · next hport => cases h; exact .rest hp hport
    · next rq rest hport =>
      refine .issue hp rq (by rw [hport]; rfl) ?_
      unfold issueStep at h
      split at h
      · exact (exec_cases h).2
      · cases h; exact illegal_move ..
    · next f rest hport =>
      cases h
      have hh : q.port.head? = some (.read f) := by rw [hport]; rfl
      unfold readStepPort
      split
      · next v hv => exact .read hp f v hh hv
      · next hv => exact .readUnwritten hp f hh hv
    · next x rest hport =>
      cases h
      have hh : q.port.head? = some (.readConfig x) := by rw [hport]; rfl
      unfold readConfigPort
      split
      · next v hv => exact .readConfig hp x v hh hv
      · next hv => exact .readNoConfig hp x hh hv
  · next hp =>
    unfold acquireStep at h
    split at h
    · cases h
    · next rt hr =>
      split at h
      · next hl => cases h; exact .acquire _ _ _ _ rt hp hr hl
      · next hl => cases h; exact .wait _ _ _ _ rt hp hr hl
  · next hp =>
    unfold writeStep at h
    split at h
    · cases h
    · next rt hr =>
      split at h
      · next hw =>
        cases h
        refine .written _ _ _ rt hp hr ?_
        cases htx : tn.tx <;> simp_all [txFailure]
      · next st hw => cases h; exact .writeFailed _ _ _ rt st hp hr hw
  · next hp =>
    unfold readStep at h
    split at h
    · cases h
    · next rt hr =>
      split at h
      · next hf => cases h; exact .answered _ _ rt hp hr hf
      · next hf => cases h; exact .tooLong _ _ hp (by simpa using hf)

/-- Everything a step can do: with no turn to take, nothing; with a turn for a port index no requester has, the turn
is over; else one move of the turn's requester. -/
theorem step_cases {s t : State} (h : step s = .next t) :
    s.refusalMark = none ∧
      ((s.turns = [] ∧ t = s) ∨
        ∃ tn rest, s.turns = tn :: rest ∧
          ((s.requesters[tn.requester]? = none ∧ t = s.beginTurn tn rest) ∨
            ∃ q, s.requesters[tn.requester]? = some q ∧ Move tn q (s.beginTurn tn rest) t)) := by
  unfold step at h
  split at h
  · cases h
  · next hm =>
    refine ⟨hm, ?_⟩
    split at h
    · next ht => cases h; exact .inl ⟨ht, rfl⟩
    · next tn rest ht =>
      refine .inr ⟨tn, rest, ht, ?_⟩
      unfold turnStep State.currentRequester? at h
      split at h
      · next hq => cases h; exact .inl ⟨hq, rfl⟩
      · next q hq => exact .inr ⟨q, hq, requesterStep_cases h⟩

/-- With no refusal mark, a step takes the next turn. -/
theorem step_of_turn {s : State} {tn : Turn} {rest : List Turn} (hm : s.refusalMark = none)
    (ht : s.turns = tn :: rest) : step s = turnStep tn (s.beginTurn tn rest) := by
  simp [step, hm, ht]

/-- The turn of a requester that exists is that requester's step. -/
theorem turnStep_of_requester {s : State} {q : Requester} (tn : Turn) (hq : s.requesters[s.current]? = some q) :
    turnStep tn s = requesterStep tn q s := by
  simp [turnStep, State.currentRequester?, hq]

end Sys2Proof.Machine
end

