-- ==== Sys2Proof/Laws/Effects.lean ====
section
/-! SUPPORT. What the shared operations change, said once each: a change of the current requester, the end of a framer
operation, and a requester's turn as a step. -/

namespace Sys2Proof.Machine

/-- A change of the current requester is the whole change. -/
theorem updateCurrent_effect {s : State} {q : Requester} (hq : s.requesters[s.current]? = some q)
    (f : Requester → Requester) : OnlyCurrent s (s.updateCurrent f) (f q) s.locks [] := by
  refine ⟨?_, fun r h => getElem?_updateCurrent_of_ne s f h, by simp, rfl, by simp, rfl, rfl, rfl, rfl, rfl⟩
  rw [getElem?_updateCurrent_current, hq]
  rfl

/-- The end of a framer operation of an idle requester (40_framer R100). -/
theorem completeOp_effect {s : State} {q : Requester} (h : Issuing s q) (opw : OpWord) (res : Result) :
    FramerEffect s (s.completeOp opw res) q opw res := by
  obtain ⟨hq, hi⟩ := h
  refine ⟨by simp [hq, hi], fun r hr => ?_, by simp, rfl, rfl, rfl, rfl, rfl, rfl, rfl⟩
  have : ¬ s.current = r := fun e => hr e.symm
  simp [this]

/-- The result a framer operation leaves in the current requester's register. -/
theorem result_of_framerEffect {s t : State} {q : Requester} {opw : OpWord} {res : Result}
    (h : FramerEffect s t q opw res) : (t.requesters[s.current]?).map Requester.result = some res := by
  rw [h.1]
  rfl

/-- A framer operation of an idle requester answers the state its result leaves (40_framer R100). -/
theorem framerOp_of_issuing {s : State} {q : Requester} (h : Issuing s q) (i : Instr) (res : Result) :
    framerOp i res s = .next (s.completeOp (encodeWord i) res) := issued_of_issuing h _

/-- `PKG_BUILD` with an address it refuses. -/
theorem execPkgBuild_of_refused {s : State} {addr : Byte} (h : maxAddress < addr.toNat) (cmd : Byte)
    (payload : Bytes) : execPkgBuild addr cmd payload s = issued s (s.refuse .addressOutOfRange) := if_pos h

/-- `PKG_BUILD` with an address it accepts. -/
theorem execPkgBuild_of_accepted {s : State} {addr : Byte} (h : ¬ maxAddress < addr.toNat) (cmd : Byte)
    (payload : Bytes) :
    execPkgBuild addr cmd payload s
      = framerOp (.pkgBuild addr cmd payload) (pkgBuildResult addr cmd payload) s := if_neg h

/-- What a read of a result field finds, field by field. -/
theorem readField_eq_some_iff (res : Result) (f : ResultField) (v : FieldValue) :
    readField res f = some v ↔ FieldHolds res v f := by
  cases f <;> simp [readField, FieldHolds, eq_comm]

/-- Without the refusal mark, a requester that holds its lock has a step (41_channel R142, R143). -/
theorem hasStep_of_holding {s : State} {r c : Nat} {q : Requester} (hm : s.refusalMark = none)
    (hq : s.requesters[r]? = some q) (hc : q.phase.holding? = some c) : s.hasStep r = true := by
  unfold State.hasStep
  simp only [hm, hq]
  cases hp : q.phase <;> rw [hp] at hc <;> first | rfl | cases hc

/-- A step with a turn of a requester that exists is that requester's step. -/
theorem step_of_turnOf {s : State} {tn : Turn} {rest : List Turn} {q : Requester} (h : TurnOf s tn rest q) :
    step s = requesterStep tn q (s.beginTurn tn rest) := by
  obtain ⟨h1, h2, h3⟩ := h
  rw [step_of_turn h1 h2, turnStep_of_requester]
  exact h3

/-- The move of a step with a turn of a requester that exists. -/
theorem move_of_turnOf {s t : State} {tn : Turn} {rest : List Turn} {q : Requester} (h : TurnOf s tn rest q)
    (hs : step s = .next t) : Move tn q (s.beginTurn tn rest) t :=
  requesterStep_cases ((step_of_turnOf h).symm.trans hs)

/-- The route of a channel the block has. -/
theorem route_of_channel {cfg : Config} {c : Nat} {ch : Channel} (h : cfg.channels[c]? = some ch) :
    route cfg c = some { address := ch.address, line := ch.line, domain := lockOf cfg ch.line } := by
  simp [route, h]

/-- Every channel with a route is one the block has. -/
theorem channel_of_route {cfg : Config} {c : Nat} {rt : Route} (h : route cfg c = some rt) :
    ∃ ch, cfg.channels[c]? = some ch ∧ rt = { address := ch.address, line := ch.line, domain := lockOf cfg ch.line } := by
  unfold route at h
  cases hc : cfg.channels[c]? with
  | none => rw [hc] at h; cases h
  | some ch => rw [hc] at h; cases h; exact ⟨ch, rfl, rfl⟩

/-- A channel index below `NUM_CHANNELS` has a route. -/
theorem exists_route {cfg : Config} {c : Nat} (h : c < numChannels cfg) : ∃ rt, route cfg c = some rt :=
  ⟨_, route_of_channel (List.getElem?_eq_getElem h)⟩

theorem acquireStep_of_free {s : State} {c : Nat} {rt : Route} (hr : route s.config c = some rt)
    (hl : s.lock rt.domain = .free) (cmd : Byte) (payload : Bytes) (tmo : Millis) :
    acquireStep c cmd payload tmo s
      = .next (((s.hold rt.domain).record (.acquire s.current rt.domain)).setPhase
          (.wr c (pkgBytes rt.address cmd payload) tmo)) := by
  simp [acquireStep, hr, hl]

theorem acquireStep_of_held {s : State} {c : Nat} {rt : Route} (hr : route s.config c = some rt)
    (hl : s.lock rt.domain ≠ .free) (cmd : Byte) (payload : Bytes) (tmo : Millis) :
    acquireStep c cmd payload tmo s = .next s := by
  simp [acquireStep, hr, hl]

theorem writeStep_of_ok {s : State} {c : Nat} {rt : Route} (hr : route s.config c = some rt) (pkg : Bytes)
    (tmo : Millis) :
    writeStep c pkg tmo .ok s = .next ((s.record (.tx s.current rt.line pkg .ok)).setPhase (.rd c tmo)) := by
  simp [writeStep, hr, txFailure]

theorem writeStep_of_failure {s : State} {c : Nat} {rt : Route} (hr : route s.config c = some rt) {w : TxOutcome}
    {st : Status} (hw : txFailure w = some st) (pkg : Bytes) (tmo : Millis) :
    writeStep c pkg tmo w s
      = .next (((s.record (.tx s.current rt.line pkg w)).release rt.domain).raise st) := by
  simp [writeStep, hr, hw]

theorem readStep_of_fits {s : State} {c : Nat} {rt : Route} (hr : route s.config c = some rt) {a : RxAnswer}
    (hf : rxFits s.config.rxCapacity a = true) :
    readStep c a s
      = .next (((s.record (.rx s.current rt.line a)).release rt.domain).complete
          (rxResult s.config.strictLength a)) := by
  simp [readStep, hr, hf]

theorem readStep_of_tooLong {s : State} {c : Nat} {rt : Route} (hr : route s.config c = some rt) {a : RxAnswer}
    (hf : rxFits s.config.rxCapacity a = false) : readStep c a s = .next (s.refuse .responseTooLong) := by
  simp [readStep, hr, hf]

end Sys2Proof.Machine
end

