-- ==== Sys2Proof/Laws/History.lean ====
section
/-! SUPPORT. The laws of the event order: where a lock domain stands after a history that is continued, and after each
kind of event. -/

namespace Sys2Proof.Machine

/-- A history continued: the domain goes on from where it stood. -/
theorem exchangeAfter_append (cfg : Config) (k : Nat) (x : Exchange) (l l' : List Event) :
    exchangeAfter cfg k x (l ++ l') = (exchangeAfter cfg k x l).bind fun y => exchangeAfter cfg k y l' := by
  induction l generalizing x with
  | nil => rfl
  | cons e rest ih =>
    simp only [List.cons_append, exchangeAfter]
    cases x.after cfg k e with
    | none => rfl
    | some y => exact ih y

/-- A history continued by one event. -/
theorem exchangeAfter_concat {cfg : Config} {k : Nat} {x y : Exchange} {l : List Event}
    (h : exchangeAfter cfg k x l = some y) (e : Event) :
    exchangeAfter cfg k x (l ++ [e]) = y.after cfg k e := by
  rw [exchangeAfter_append, h]
  simp only [Option.bind_some, exchangeAfter]
  cases y.after cfg k e <;> rfl

/-- A history continued by two events. -/
theorem exchangeAfter_concat₂ {cfg : Config} {k : Nat} {x y z : Exchange} {l : List Event}
    (h : exchangeAfter cfg k x l = some y) {e : Event} (he : y.after cfg k e = some z) (e' : Event) :
    exchangeAfter cfg k x (l ++ [e] ++ [e']) = z.after cfg k e' :=
  exchangeAfter_concat ((exchangeAfter_concat h e).trans he) e'

/-- What a match with the state says of the lock. -/
theorem lock_of_matches {s : State} {k : Nat} {x : Exchange} (h : x.Matches s k) :
    s.lock k = match x with
      | .none => .free
      | .acquired r => .held r
      | .written r => .held r
      | .closing r => .held r := by
  cases x with
  | none => exact h
  | acquired r => exact h.1
  | written r => exact h.1
  | closing r => exact h.elim

end Sys2Proof.Machine
end

