-- ==== Sys2Proof/Laws/PerInstr.lean ====
section
/-! SUPPORT. Per instruction: the fields of its operation word (30_encoding R81, R82): its `OP` code, the operands in
the fields it uses, and zero in its must-be-zero fields. -/

namespace Sys2Proof.Laws.Encoding

/-- The four fields of a word. -/
def Fields (w : OpWord) (op addr cmd chan : Byte) : Prop :=
  opwOp w = op ∧ opwAddr w = addr ∧ opwCmd w = cmd ∧ opwChan w = chan

/-- The fields of an operation's word are those of its row of the operation map (R81, R82). -/
def Statement (i : Instr) : Prop :=
  match i with
  | .msgBuild cmd _ => Fields (encodeWord i) 0x01 0 cmd 0
  | .msgParse _ => Fields (encodeWord i) 0x02 0 0 0
  | .pkgBuild addr cmd _ => Fields (encodeWord i) 0x03 addr cmd 0
  | .pkgParse _ => Fields (encodeWord i) 0x04 0 0 0
  | .chkCalc _ => Fields (encodeWord i) 0x05 0 0 0
  | .chkVerify _ => Fields (encodeWord i) 0x06 0 0 0
  | .chRequest chan cmd _ _ => Fields (encodeWord i) 0x10 0 cmd chan

/-- A packed word has the fields it was packed from. -/
theorem fields_packWord (op addr cmd chan : Byte) : Fields (packWord op addr cmd chan) op addr cmd chan :=
  ⟨opwOp_packWord .., opwAddr_packWord .., opwCmd_packWord .., opwChan_packWord ..⟩

theorem msgBuild (cmd : Byte) (payload : Bytes) : Statement (.msgBuild cmd payload) := fields_packWord ..
theorem msgParse (stream : Bytes) : Statement (.msgParse stream) := fields_packWord ..
theorem pkgBuild (addr cmd : Byte) (payload : Bytes) : Statement (.pkgBuild addr cmd payload) := fields_packWord ..
theorem pkgParse (stream : Bytes) : Statement (.pkgParse stream) := fields_packWord ..
theorem chkCalc (stream : Bytes) : Statement (.chkCalc stream) := fields_packWord ..
theorem chkVerify (stream : Bytes) : Statement (.chkVerify stream) := fields_packWord ..
theorem chRequest (chan cmd : Byte) (payload : Bytes) (timeout : Millis) :
    Statement (.chRequest chan cmd payload timeout) := fields_packWord ..

end Sys2Proof.Laws.Encoding
end

