-- ==== Sys2Proof/Tests/Slice0.lean ====
section
/-! SUPPORT. The model's own tests: the well-formedness smoke test, words written out from 30_encoding, vectors of
95_test_vectors on single steps, and for every statement with hypotheses a named witness that meets them together. -/

namespace Sys2Proof.Tests

open Sys2Proof.Machine

/-! ### Small states -/

/-- Two channels (addresses 5 and 6) on line 0, as in program P3. -/
def cfg (strict : Bool) : Config where
  channels := [{ address := 5, line := 0 }, { address := 6, line := 0 }]
  lockMap := [0]
  strictLength := strict
  rxCapacity := none
  foreignLines := []

/-- A requester in a phase, with something on its port. -/
def req (p : Phase) (port : List PortAction) : Requester := { Requester.reset with phase := p, port := port }

/-- A state with two requesters, some locks held and some turns to come. -/
def st (strict : Bool) (q0 q1 : Requester) (locks : List (Nat × Nat)) (turns : List Turn) : State :=
  { State.reset with config := cfg strict, requesters := [q0, q1], locks := locks, turns := turns }

/-- Both requesters idle: requester 0 may issue. -/
def idle (strict : Bool) : State := st strict (req .idle []) (req .idle []) [] []

/-- A turn of requester `r` with a read answer. -/
def turn (r : Nat) (tx : TxOutcome) (rx : RxAnswer) : Turn := { requester := r, tx := tx, rx := rx }

def next? (o : Host.Outcome State Fault Refusal) : Option State :=
  match o with
  | .next t => some t
  | .fault _ => none
  | .refused _ => none

def result? (o : Host.Outcome State Fault Refusal) (r : Nat) : Option Result :=
  (next? o).bind fun t => (t.requesters[r]?).map Requester.result

def phase? (o : Host.Outcome State Fault Refusal) (r : Nat) : Option Phase :=
  (next? o).bind fun t => (t.requesters[r]?).map Requester.phase

/-- The package of V53: address 5, command 0x10, payload 03. -/
def pkg53 : Bytes := [0x05, 0x10, 0x00, 0x01, 0x03, 0xE7]

/-- The response of V53. -/
def resp53 : Bytes := [0x05, 0x11, 0x00, 0x02, 0x12, 0x34, 0xA2]

/-! ### Well-formedness and decoding -/

/-- R80: a channel the block does not have is ill-formed; its last channel is well-formed. -/
theorem test_wellFormed_channel :
    Instr.wellFormed 3 (.chRequest 3 0x10 [] 0) = false ∧ Instr.wellFormed 3 (.chRequest 2 0x10 [] 0) = true := by
  decide

/-- R87: `MSG_BUILD cmd=0x10` is 0x00100001; R81 and R82 bit by bit: OP 00000001, CMD 00010000. -/
theorem test_decode_msgBuild :
    decodeTableWord 32 0b00000000000100000000000000000001 = some (.msgBuild 0x10 []) := by decide

/-- V7: `MSG_PARSE` is 0x00000002. -/
theorem test_decode_msgParse : decodeTableWord 32 0b00000000000000000000000000000010 = some (.msgParse []) := by decide

/-- R87: `PKG_BUILD addr=5, cmd=0x10` is 0x00100503: ADDR 00000101 above OP 00000011. -/
theorem test_decode_pkgBuild :
    decodeTableWord 32 0b00000000000100000000010100000011 = some (.pkgBuild 5 0x10 []) := by decide

/-- V22: `PKG_PARSE` is 0x00000004. -/
theorem test_decode_pkgParse : decodeTableWord 32 0b00000000000000000000000000000100 = some (.pkgParse []) := by decide

/-- V34: `CHK_CALC` is 0x00000005. -/
theorem test_decode_chkCalc : decodeTableWord 32 0b00000000000000000000000000000101 = some (.chkCalc []) := by decide

/-- V40: `CHK_VERIFY` is 0x00000006. -/
theorem test_decode_chkVerify : decodeTableWord 32 0b00000000000000000000000000000110 = some (.chkVerify []) := by
  decide

/-- R87: `CH_REQUEST chan=2, cmd=0x10` is 0x02100010: CHAN 00000010 on top, OP 00010000. -/
theorem test_decode_chRequest :
    decodeTableWord 32 0b00000010000100000000000000010000 = some (.chRequest 2 0x10 [] 0) := by decide

/-- V46 to V52: the words the spec calls illegal, V50 on a block with one channel. -/
theorem test_decode_illegal :
    decodeTableWord 32 0x00000000 = none ∧ decodeTableWord 32 0x00000007 = none
      ∧ decodeTableWord 32 0x00000102 = none ∧ decodeTableWord 32 0x01100001 = none
      ∧ decode 1 { opw := 0x03100010, dataIn := [], timeoutMs := 0 } = none
      ∧ decodeTableWord 32 0x00100510 = none ∧ decodeTableWord 32 0x000000FF = none := by decide

/-- R83: the decoder rejects by name, one name per clause. -/
theorem test_decode_reasons :
    decodeRequest 1 { opw := 0x00000007, dataIn := [], timeoutMs := 0 } matches .error .unknownOp
      ∧ decodeRequest 1 { opw := 0x00000102, dataIn := [], timeoutMs := 0 } matches .error .fieldNotZero
      ∧ decodeRequest 1 { opw := 0x03100010, dataIn := [], timeoutMs := 0 } matches .error .noSuchChannel := by
  decide

/-! ### Framer operations: vectors of 95_test_vectors -/

/-- V1. -/
theorem test_msgBuild_V1 :
    result? (exec (.msgBuild 0x10 [0x03]) (idle false)) 0
      = some { Result.unwritten with status := some .ok, bytes := some [0x10, 0x00, 0x01, 0x03], size := some 1 } := by
  decide

/-- V4 and V5, the length bytes of 256 and of 65535: high byte first. -/
theorem test_msgBuild_V4_V5 : be16 256 = [0x01, 0x00] ∧ be16 65535 = [0xFF, 0xFF] := by decide

/-- V11 and V12: the length field is checked only under STRICT_LENGTH. -/
theorem test_msgParse_V11_V12 :
    result? (exec (.msgParse [0x10, 0x00, 0x05, 0x03]) (idle false)) 0
        = some { Result.unwritten with status := some .ok, cmd := some 0x10, size := some 5, payload := some [0x03] }
      ∧ result? (exec (.msgParse [0x10, 0x00, 0x05, 0x03]) (idle true)) 0
        = some { Result.unwritten with status := some .lengthMismatch } := by decide

/-- V8. -/
theorem test_msgParse_V8 :
    result? (exec (.msgParse [0x10, 0x00]) (idle false)) 0
      = some { Result.unwritten with status := some .messageTooShort } := by decide

/-- L1.1 and V15: the checksum of DOC's example, and the highest address. -/
theorem test_pkgBuild_L1_V15 :
    result? (exec (.pkgBuild 5 0x10 [0x03]) (idle false)) 0
        = some { Result.unwritten with status := some .ok, bytes := some pkg53, checksum := some 0xE7 }
      ∧ result? (exec (.pkgBuild 31 0x50 [0xFF, 0xFF]) (idle false)) 0
        = some { Result.unwritten with
            status := some .ok, bytes := some [0x1F, 0x50, 0x00, 0x02, 0xFF, 0xFF, 0x91], checksum := some 0x91 } := by
  decide

/-- V20: refused, not a status: the mark is set, the result and the history are untouched, no step follows. -/
theorem test_pkgBuild_V20 :
    (next? (exec (.pkgBuild 32 0x00 []) (idle false))).map
        (fun t => (t.refusalMark, t.hist, t.requesters == (idle false).requesters, (next? (step t)).isNone))
      = some (some .addressOutOfRange, [], true, true) := by decide

/-- V22 and V27: all fields; any address byte is accepted. -/
theorem test_pkgParse_V22_V27 :
    result? (exec (.pkgParse pkg53) (idle false)) 0
        = some { Result.unwritten with
            status := some .ok, addr := some 5, cmd := some 0x10, size := some 1, payload := some [0x03]
            checksum := some 0xE7 }
      ∧ result? (exec (.pkgParse [0xFF, 0x00, 0x00, 0x00, 0x01]) (idle false)) 0
        = some { Result.unwritten with
            status := some .ok, addr := some 0xFF, cmd := some 0, size := some 0, payload := some []
            checksum := some 1 } := by decide

/-- V24, V30, V29: the order of the checks: length, then checksum, then the length field. -/
theorem test_pkgParse_V24_V30_V29 :
    result? (exec (.pkgParse [0x05, 0x10, 0x00, 0x00]) (idle true)) 0
        = some { Result.unwritten with status := some .packageTooShort }
      ∧ result? (exec (.pkgParse [0x05, 0x10, 0x00, 0x05, 0x03, 0xE4]) (idle true)) 0
        = some { Result.unwritten with status := some .checksumError }
      ∧ result? (exec (.pkgParse [0x05, 0x10, 0x00, 0x05, 0x03, 0xE3]) (idle true)) 0
        = some { Result.unwritten with status := some .lengthMismatch } := by decide

/-- V34, V37, V38: the empty stream, a sum of 256, a sum of 510. -/
theorem test_chkCalc_V34_V37_V38 :
    result? (exec (.chkCalc []) (idle false)) 0
        = some { Result.unwritten with status := some .ok, checksum := some 0x00 }
      ∧ result? (exec (.chkCalc [0x80, 0x80]) (idle false)) 0
        = some { Result.unwritten with status := some .ok, checksum := some 0x00 }
      ∧ result? (exec (.chkCalc [0xFF, 0xFF]) (idle false)) 0
        = some { Result.unwritten with status := some .ok, checksum := some 0x02 } := by decide

/-- V40 to V44. -/
theorem test_chkVerify_V40_V44 :
    verify pkg53 = true ∧ verify [0x05, 0x10, 0x00, 0x01, 0x03, 0xE8] = false ∧ verify [] = false
      ∧ verify [0x00] = true ∧ verify [0x01] = false := by decide

/-- V41 on the machine: a failed check is `OK` with `valid` false. -/
theorem test_chkVerify_V41 :
    result? (exec (.chkVerify [0x05, 0x10, 0x00, 0x01, 0x03, 0xE8]) (idle false)) 0
      = some { Result.unwritten with status := some .ok, valid := some false } := by decide

/-! ### The channel sequencer: programs P2 and P3, one step each -/

/-- P2 step 1, issue: the word on the port of requester 0 becomes `ACQ`. -/
theorem test_chRequest_issue :
    phase? (step (st false
      (req .idle [.issue { opw := 0x00100010, dataIn := [0x03], timeoutMs := 100 }]) (req .idle []) []
      [turn 0 .ok .timeout])) 0 = some (.acq 0 0x10 [0x03] 100) := by decide

/-- P3 step 3: acquire frames the package and takes the lock. -/
theorem test_acquire_P3 :
    phase? (step (st false (req (.acq 0 0x10 [0x03] 100) []) (req .idle []) [] [turn 0 .ok .timeout])) 0
        = some (.wr 0 pkg53 100)
      ∧ (next? (step (st false (req (.acq 0 0x10 [0x03] 100) []) (req .idle []) []
          [turn 0 .ok .timeout]))).map State.locks = some [(0, 0)] := by decide

/-- P3: requester 1 has no step while requester 0 holds the lock. -/
theorem test_wait_P3 :
    next? (step (st false (req (.wr 0 pkg53 100) []) (req (.acq 1 0x10 [0x03] 100) []) [(0, 0)]
        [turn 1 .ok .timeout]))
      = some { st false (req (.wr 0 pkg53 100) []) (req (.acq 1 0x10 [0x03] 100) []) [(0, 0)] [] with
          current := 1 } := by decide

/-- V59: a failed write skips the read, frees the lock and reports the timeout. -/
theorem test_write_V59 :
    (next? (step (st false (req (.wr 0 pkg53 100) []) (req .idle []) [(0, 0)] [turn 0 .timeout .timeout]))).map
        (fun t => (t.hist, t.locks, (t.requesters[0]?).map fun q => (q.phase, q.result.status)))
      = some ([.tx 0 0 pkg53 .timeout, .release 0 0], [], some (.idle, some .transportTimeout)) := by decide

/-- V53: the response Message alone is returned, and the lock is free. -/
theorem test_read_V53 :
    result? (step (st false (req (.rd 0 100) []) (req .idle []) [(0, 0)] [turn 0 .ok (.bytes resp53)])) 0
        = some { Result.unwritten with
            status := some .ok, cmd := some 0x11, size := some 2, payload := some [0x12, 0x34] }
      ∧ (next? (step (st false (req (.rd 0 100) []) (req .idle []) [(0, 0)]
          [turn 0 .ok (.bytes resp53)]))).map (fun t => (t.locks, t.hist))
        = some ([], [.rx 0 0 (.bytes resp53), .release 0 0]) := by decide

/-- V54, V55, V56, V57, V61: the other answers; a foreign address is not checked. -/
theorem test_rxResult_vectors :
    rxResult false (.bytes [0x05, 0x11, 0x00, 0x02, 0x12, 0x34, 0xA3]) = Result.error .checksumError
      ∧ rxResult false (.bytes []) = Result.error .emptyResponse
      ∧ rxResult false (.bytes [0x05, 0x11, 0x00]) = Result.error .packageTooShort
      ∧ rxResult false .timeout = Result.error .transportTimeout
      ∧ rxResult false (.bytes [0x09, 0x11, 0x00, 0x01, 0x05, 0xE0])
        = { Result.unwritten with status := some .ok, cmd := some 0x11, size := some 1, payload := some [0x05] } := by
  decide

/-! ### The step, the port and reset -/

/-- The table's words run as the first operation after reset. -/
theorem test_withFetchWord :
    result? (step (State.reset.withFetchWord 32 0x00000005)) 0
        = some { Result.unwritten with status := some .ok, checksum := some 0 }
      ∧ phase? (step (State.reset.withFetchWord 32 0x1F100010)) 0 = some (.acq 31 0x10 [] 0) := by decide

/-- V47 and P4 step 3: an illegal word completes with its status and one event. -/
theorem test_illegal_V47 :
    (next? (step (st false (req .idle [.issue { opw := 0x00000007, dataIn := [], timeoutMs := 0 }]) (req .idle []) []
        [turn 0 .ok .timeout]))).map (fun t => ((t.requesters[0]?).map Requester.result, t.hist))
      = some (some (Result.error .illegalOperation), [.op 0 0x00000007 (Result.error .illegalOperation)]) := by decide

/-- P1, end state: after an error, reading `addr` faults; reading `status` gives the code of CHECKSUM_ERROR. -/
theorem test_read_after_error :
    (next? (step (st false { req .idle [.read .addr] with result := Result.error .checksumError } (req .idle []) []
        [turn 0 .ok .timeout]))).map State.faultMark = some true
      ∧ readField (Result.error .checksumError) .status = some (.byte 0x04) := by decide

/-- R27: a channel's address as a requester reads it; a channel the block does not have delivers nothing. -/
theorem test_read_config :
    (next? (step (st false (req .idle [.readConfig (.address 1)]) (req .idle []) [] [turn 0 .ok .timeout]))).map
        (fun t => (t.requesters[0]?).map Requester.lastRead) = some (some (some (.byte 6)))
      ∧ (next? (step (st false (req .idle [.readConfig (.address 2)]) (req .idle []) [] [turn 0 .ok .timeout]))).map
        (fun t => (t.requesters[0]?).map Requester.lastRead) = some (some none) := by decide

/-- `ReadOfConfigRegisterDelivers`: a read of a register of the block is the next thing requester 0 does. -/
theorem witness_read_config (x : ConfigRegister) :
    TurnOf (st false (req .idle [.readConfig x]) (req .idle []) [] [turn 0 .ok .timeout]) (turn 0 .ok .timeout) []
        (req .idle [.readConfig x]) ∧ 1 < numChannels (cfg false) ∧ ¬ 2 < numChannels (cfg false)
      ∧ 0 < numLines (cfg false) ∧ ¬ 1 < numLines (cfg false) :=
  ⟨⟨rfl, rfl, rfl⟩, by decide, by decide, by decide, by decide⟩

/-- R8, R28: the launch configuration is in range and not refused, and reset has a requester. -/
theorem test_resetConfig_legal :
    configInRange resetConfig = true ∧ configRefused resetConfig = false ∧ 1 ≤ State.reset.requesters.length :=
  ⟨by decide, configRefused_resetConfig, by decide⟩

/-! ### Witnesses: the hypotheses of the statements can be met, at the values where their clauses meet -/

/-- The hypotheses of the framer statements, of `ChRequestIssue` and of `PackageRoundTrip` with an address of 31. -/
theorem witness_issuing : Issuing (idle false) (req .idle []) ∧ Issuing (idle true) (req .idle [])
    ∧ (31 : Byte).toNat ≤ 31 ∧ ¬ (32 : Byte).toNat ≤ 31 ∧ ([] : Bytes).length ≤ 65535 :=
  ⟨⟨rfl, rfl⟩, ⟨rfl, rfl⟩, by decide, by decide, by decide⟩

/-- The longest payload a Message carries and the shortest it does not (V5, V6). -/
theorem witness_payload_bound :
    (List.replicate 65535 (0 : Byte)).length = 65535 ∧ (List.replicate 65536 (0 : Byte)).length = 65536 :=
  ⟨List.length_replicate, List.length_replicate⟩

/-- `ChRequestIssue`, boundary: channel 1 is the block's last, channel 2 is none of it. -/
theorem witness_channel_bound :
    ¬ numChannels (idle false).config ≤ (1 : Byte).toNat ∧ numChannels (idle false).config ≤ (2 : Byte).toNat := by
  decide

/-- `SingleByteChangeIsDetected`: a byte of a built package and another value, first and last. -/
theorem witness_single_byte :
    Issuing (idle false) (req .idle [])
      ∧ ∃ h : 0 < (pkgBytes 5 0x10 [0x03]).length, (0x06 : Byte) ≠ (pkgBytes 5 0x10 [0x03])[0]
      ∧ ∃ h' : 5 < (pkgBytes 5 0x10 [0x03]).length, (0xE8 : Byte) ≠ (pkgBytes 5 0x10 [0x03])[5] :=
  ⟨⟨rfl, rfl⟩, by decide, by decide, by decide, by decide⟩

/-- `MsgParseResult`, `PkgParseResult` and `ResponseMapping`: streams of each form, at the shortest lengths. -/
theorem witness_stream_forms :
    ([0x10, 0x00] : Bytes).length < 3 ∧ ([0x10, 0x00, 0x00] : Bytes) = 0x10 :: 0x00 :: 0x00 :: []
      ∧ ([0x05, 0x10, 0x00, 0x00] : Bytes).length < 5
      ∧ ([0x00, 0x00, 0x00, 0x00, 0x00] : Bytes) = 0x00 :: 0x00 :: 0x00 :: 0x00 :: ([] ++ [0x00])
      ∧ byteSum [0x00, 0x00, 0x00, 0x00, 0x00] % 256 = 0 ∧ byteSum [0xFF, 0x00, 0x00, 0x00, 0x00] % 256 ≠ 0
      ∧ byteSum [0x05, 0x10, 0x00, 0x05, 0x03, 0xE3] % 256 = 0 := by decide

/-- `RefusedConfigurationHasNoLaunch`: each case of R28, and a configuration that none of them meets. -/
theorem witness_refused_configurations :
    configRefused { cfg false with channels := [{ address := 32, line := 0 }] } = true
      ∧ configRefused { cfg false with channels := [{ address := 31, line := 1 }] } = true
      ∧ configRefused { cfg false with foreignLines := [0] } = true
      ∧ configRefused { cfg false with channels := [{ address := 31, line := 0 }] } = false := by decide

/-- `DecodeEncode`, `DecodedWordIsItsEncoding`, `FramerResultDependsOnOperandsOnly`. -/
theorem witness_encoding :
    Instr.wellFormed 2 (.chRequest 1 0x10 [0x03] 100) = true
      ∧ decode 2 { opw := 0x01100010, dataIn := [0x03], timeoutMs := 100 } = some (.chRequest 1 0x10 [0x03] 100)
      ∧ isFramer (.pkgBuild 31 0 []) = true ∧ isRefused (.pkgBuild 31 0 []) = false
      ∧ (idle false).config.strictLength = (idle false).config.strictLength := by decide

/-- `IllegalWordCompletes` and `StepRunsTheDecodedOperation`: an idle requester whose turn it is and who sends a word. -/
theorem witness_port_issue :
    TurnOf (st false (req .idle [.issue { opw := 0x00000007, dataIn := [], timeoutMs := 0 }]) (req .idle []) []
        [turn 0 .ok .timeout]) (turn 0 .ok .timeout) []
        (req .idle [.issue { opw := 0x00000007, dataIn := [], timeoutMs := 0 }])
      ∧ IllegalWord (numChannels (cfg false)) 0x00000007 ∧ IllegalWord (numChannels (cfg false)) 0x02100010
      ∧ ¬ IllegalWord (numChannels (cfg false)) 0x01100010
      ∧ decode (numChannels (cfg false)) { opw := 0x01100010, dataIn := [], timeoutMs := 0 }
        = some (.chRequest 1 0x10 [] 0) :=
  ⟨⟨rfl, rfl, rfl⟩, by unfold IllegalWord; decide, by unfold IllegalWord; decide, by unfold IllegalWord; decide,
    by decide⟩

/-- `ReadOfUnwrittenFieldFaults` and `ReadOfWrittenFieldDelivers`: a result with `valid` written and `addr` not. -/
theorem witness_port_read (f : ResultField) :
    let q := { req .idle [.read f] with result := chkVerifyResult pkg53 }
    TurnOf (st false q (req .idle []) [] [turn 0 .ok .timeout]) (turn 0 .ok .timeout) [] q
      ∧ readField q.result .addr = none ∧ FieldUnwritten q.result .addr ∧ FieldHolds q.result (.bool true) .valid
      ∧ FieldHolds q.result (.byte 0x00) .status :=
  ⟨⟨rfl, rfl, rfl⟩, rfl, rfl, ⟨_, by show some (verify pkg53) = some true; decide, rfl⟩, ⟨_, rfl, rfl⟩⟩

/-- `ReadOfWrittenFieldDelivers`: every field of the package of V22 that is written, none of it by another's value. -/
theorem test_read_fields :
    let res := pkgParseResult false pkg53
    FieldHolds res (.byte 0x05) .addr ∧ FieldHolds res (.byte 0x10) .cmd ∧ FieldHolds res (.size 1) .size
      ∧ FieldHolds res (.stream [0x03]) .payload ∧ FieldHolds res (.byte 0xE7) .checksum
      ∧ FieldUnwritten res .bytes ∧ FieldUnwritten res .valid
      ∧ FieldHolds (msgBuildResult 0x10 [0x03]) (.stream [0x10, 0x00, 0x01, 0x03]) .bytes := by
  refine ⟨⟨_, rfl, ?_⟩, ⟨_, rfl, ?_⟩, ⟨_, rfl, ?_⟩, ⟨_, rfl, ?_⟩, ⟨_, rfl, ?_⟩, rfl, rfl, ⟨_, rfl, ?_⟩⟩ <;> decide

/-- `ChecksumMissesBalancedChanges`: V32 and V33 beside the package of L1.1, and V45. -/
theorem witness_undetected :
    byteSum pkg53 % 256 = byteSum [0x05, 0x11, 0x00, 0x01, 0x02, 0xE7] % 256
      ∧ verify [0x05, 0x11, 0x00, 0x01, 0x02, 0xE7] = true ∧ verify [0x10, 0x05, 0x00, 0x01, 0x03, 0xE7] = true
      ∧ 1 ≤ (pkg53 ++ []).length ∧ verify (pkg53 ++ 0 :: []) = true := by decide

/-- `AnyWaiterMayBeGranted`: two requesters that wait for the free lock of line 0. -/
theorem witness_two_waiters :
    let s := st false (req (.acq 0 0x10 [0x03] 100) []) (req (.acq 1 0x10 [0x03] 100) []) [] []
    s.refusalMark = none ∧ s.lock 0 = .free
      ∧ ∀ r ∈ [0, 1], ∃ q c cmd payload tmo ch, s.requesters[r]? = some q ∧ q.phase = .acq c cmd payload tmo
        ∧ s.config.channels[c]? = some ch ∧ lockOf s.config ch.line = 0 := by
  refine ⟨rfl, rfl, fun r hr => ?_⟩
  rcases List.mem_cons.1 hr with rfl | hr
  · exact ⟨_, 0, 0x10, [0x03], 100, _, rfl, rfl, rfl, rfl⟩
  · rcases List.mem_cons.1 hr with rfl | hr
    · exact ⟨_, 1, 0x10, [0x03], 100, _, rfl, rfl, rfl, rfl⟩
    · cases hr

/-- Requester 0 in a phase that holds the lock of line 0, requester 1 waiting for that lock. -/
def busy (p : Phase) (tx : TxOutcome) (rx : RxAnswer) : State :=
  st false (req p []) (req (.acq 1 0x10 [0x03] 100) []) [(0, 0)] [turn 0 tx rx]

/-- A busy state whose phase is a legal one on channel 0 has the invariant. -/
theorem inv_busy {p : Phase} (hp : p.holding? = some 0) (hl : p.Legal (cfg false)) (tx : TxOutcome) (rx : RxAnswer) :
    (busy p tx rx).Inv := by
  have hd : p.heldDomain? (cfg false) = some 0 := by simp only [Phase.heldDomain?, hp]; rfl
  refine ⟨by simp [busy, st, LocksWf], fun k r => ?_, fun q hq => ?_, fun q hq => ?_, fun _ => by
    show configRefused (cfg false) = false; decide⟩
  · have hk : (busy p tx rx).lock k = if k = 0 then .held 0 else .free := by
      simp [busy, st, State.lock, lockLookup, eq_comm]
    rw [hk]
    match r with
    | 0 =>
      constructor
      · intro h
        have : k = 0 := by by_contra hne; simp [hne] at h
        exact ⟨req p [], rfl, this ▸ hd⟩
      · rintro ⟨q, hq, h⟩
        cases hq
        have := hd.symm.trans h
        cases this
        rfl
    | 1 =>
      constructor
      · intro h; split at h <;> cases h
      · rintro ⟨q, hq, h⟩; cases hq; cases h
    | r + 2 =>
      constructor
      · intro h; split at h <;> cases h
      · rintro ⟨q, hq, h⟩; cases hq
  · rcases List.mem_cons.1 hq with rfl | hq
    · exact hl
    · rcases List.mem_cons.1 hq with rfl | hq
      · exact ⟨by show 1 < numChannels (cfg false); decide, by show 1 ≤ maxPayload; decide⟩
      · cases hq
  · rcases List.mem_cons.1 hq with rfl | hq
    · exact .inl rfl
    · rcases List.mem_cons.1 hq with rfl | hq
      · exact .inl rfl
      · cases hq

/-- `AcquireStepTakesTheFreeLock` and `ExchangeEndsInThreeTurns`: a waiting requester whose lock is free, and three turns
of it, the second with any outcome of the write: `Ok`, or a failure. -/
theorem witness_acquire_free (tx : TxOutcome) :
    let s := st false (req (.acq 0 0x10 [0x03] 100) []) (req .idle []) []
      [turn 0 .ok .timeout, turn 0 tx .timeout, turn 0 .ok (.bytes resp53)]
    TurnOf s (turn 0 .ok .timeout) [turn 0 tx .timeout, turn 0 .ok (.bytes resp53)] (req (.acq 0 0x10 [0x03] 100) [])
      ∧ s.config.channels[0]? = some { address := 5, line := 0 } ∧ s.lock (lockOf s.config 0) = .free
      ∧ (tx = .ok ∨ ∃ e, txFailure tx = some e)
      ∧ rxFits s.config.rxCapacity (.bytes resp53) = true := by
  refine ⟨⟨rfl, rfl, rfl⟩, rfl, rfl, ?_, rfl⟩
  cases tx with
  | ok => exact .inl rfl
  | timeout => exact .inr ⟨_, rfl⟩
  | ioError => exact .inr ⟨_, rfl⟩

/-- `AcquireStepTakesTheFreeLock`, the other clause: the lock is held by requester 0 and it is requester 1's turn. -/
theorem witness_acquire_held :
    let s := st false (req (.wr 0 pkg53 100) []) (req (.acq 1 0x10 [0x03] 100) []) [(0, 0)] [turn 1 .ok .timeout]
    TurnOf s (turn 1 .ok .timeout) [] (req (.acq 1 0x10 [0x03] 100) []) ∧ s.lock (lockOf s.config 0) = .held 0 :=
  ⟨⟨rfl, rfl, rfl⟩, rfl⟩

/-- `WriteStepFollowsTheOutcome` (each outcome is a turn), `StepKeepsInvariant`, `StepKeepsTxFramed`, `EnabledStepMoves`,
`LockReleasedWhenRequestEnds`, `LockChangesOnlyByItsHolder`, `BusyRequesterIssuesNothing`, `OtherDomainsAreUntouched`:
requester 0 in `WR` with the package of V53 and its lock held. -/
theorem witness_write (tx : TxOutcome) :
    (busy (.wr 0 pkg53 100) tx .timeout).Inv
      ∧ TurnOf (busy (.wr 0 pkg53 100) tx .timeout) (turn 0 tx .timeout) [] (req (.wr 0 pkg53 100) [])
      ∧ (busy (.wr 0 pkg53 100) tx .timeout).TxFramed
      ∧ (req (.wr 0 pkg53 100) []).phase.heldDomain? (cfg false) = some 0
      ∧ (cfg false).channels[0]? = some { address := 5, line := 0 } ∧ (1 : Nat) ≠ lockOf (cfg false) 0 :=
  ⟨inv_busy (p := .wr 0 pkg53 100) rfl ⟨⟨5, 0, 0⟩, 0x10, [0x03], rfl, by decide, by decide⟩ tx .timeout,
    ⟨rfl, rfl, rfl⟩, fun _ he => (by cases he), rfl, rfl, by decide⟩

/-- The write of `witness_write` answers a next state in which, on a failure, requester 0 is idle and its lock free. -/
theorem witness_write_ends :
    (next? (step (busy (.wr 0 pkg53 100) .ioError .timeout))).map
        (fun t => ((t.requesters[0]?).map Requester.phase, t.locks))
      = some (some .idle, []) := by decide

/-- `ReadStepParsesAndReleases`, `ResponseGoesToTheHolder`, `AtMostOneHolder`: requester 0 in `RD`. -/
theorem witness_read (rx : RxAnswer) :
    (busy (.rd 0 100) .ok rx).Inv ∧ TurnOf (busy (.rd 0 100) .ok rx) (turn 0 .ok rx) [] (req (.rd 0 100) [])
      ∧ rxFits (busy (.rd 0 100) .ok rx).config.rxCapacity rx = true
      ∧ (req (.rd 0 100) []).phase.heldDomain? (cfg false) = some 0 := by
  refine ⟨inv_busy rfl (by show 0 < numChannels (cfg false); decide) .ok rx, ⟨rfl, rfl, rfl⟩, ?_, rfl⟩
  cases rx <;> rfl

/-- `ResponseGoesToTheHolder`: the read of V53 appends an `Rx` event. -/
theorem witness_read_event :
    (next? (step (busy (.rd 0 100) .ok (.bytes resp53)))).map State.hist
      = some [.rx 0 0 (.bytes resp53), .release 0 0] := by decide

/-- `StepKeepsHistoryOrder`: the history of requester 0's exchange so far, with the state of `witness_write`. -/
theorem witness_history :
    { busy (.wr 0 pkg53 100) .ok .timeout with hist := [.acquire 0 0] }.HistoryOrdered := by
  intro k
  by_cases hk : k = 0
  · subst hk
    exact ⟨.acquired 0, rfl, rfl, req (.wr 0 pkg53 100) [], 0, pkg53, 100, rfl, rfl⟩
  · refine ⟨.none, ?_, ?_⟩
    · have : 0 ≠ k := fun e => hk e.symm
      simp [exchangeAfter, Exchange.after, this]
    · simp [Exchange.Matches, busy, st, State.lock, lockLookup, eq_comm, hk]

/-- `StepKeepsHistoryOrder`: that state has the invariant, and its step answers a next state. -/
theorem witness_history_inv :
    { busy (.wr 0 pkg53 100) .ok .timeout with hist := [.acquire 0 0] }.Inv :=
  have h := (witness_write .ok).1
  ⟨h.locksWf, h.lockIff, h.phases, h.results, h.config⟩

/-- `OverlongResponseIsRefused`: an answer of seven bytes on a receive path that holds six, and one that it holds. -/
theorem witness_overlong :
    let s := { busy (.rd 0 100) .ok (.bytes resp53) with config := { cfg false with rxCapacity := some 6 } }
    s.Inv ∧ TurnOf s (turn 0 .ok (.bytes resp53)) [] (req (.rd 0 100) []) ∧ 6 < resp53.length
      ∧ rxFits (some 7) (.bytes resp53) = true := by
  have h := (witness_read (.bytes resp53)).1
  refine ⟨⟨h.locksWf, h.lockIff, h.phases, h.results, h.config⟩, ⟨rfl, rfl, rfl⟩, by decide, by decide⟩

/-- `IdleRunIsOver` and `MarksAreNeverCleared`: an idle state with the invariant; a faulted state steps on. -/
theorem witness_idle : (idle false).Inv ∧ (∀ q ∈ (idle false).requesters, q.phase = .idle)
    ∧ (idle false).faultMark = false ∧ (idle false).refusalMark = none
    ∧ next? (step (idle false).markFault) = some (idle false).markFault := by
  refine ⟨⟨by simp [idle, st, LocksWf], fun k r => ⟨fun h => (by cases h), ?_⟩, ?_, ?_, fun _ => by
    show configRefused (cfg false) = false; decide⟩, by decide, rfl, rfl, by decide⟩
  · rintro ⟨q, hq, h⟩
    match r, hq with
    | 0, hq => cases hq; cases h
    | 1, hq => cases hq; cases h
  · intro q hq
    rcases List.mem_cons.1 hq with rfl | hq
    · trivial
    · rcases List.mem_cons.1 hq with rfl | hq
      · trivial
      · cases hq
  · intro q hq
    rcases List.mem_cons.1 hq with rfl | hq
    · exact .inl rfl
    · rcases List.mem_cons.1 hq with rfl | hq
      · exact .inl rfl
      · cases hq

/-- `NoUnmarkedStateIsStuck`: an unmarked state with the invariant in which requester 1 waits for the lock of requester 0. -/
theorem witness_unmarked :
    let s := busy (.rd 0 100) .ok .timeout
    s.Inv ∧ s.refusalMark = none ∧ s.requesters[1]? = some (req (.acq 1 0x10 [0x03] 100) [])
      ∧ s.lock (lockOf s.config 0) = .held 0 ∧ s.hasStep 0 = true :=
  ⟨(witness_read .timeout).1, rfl, rfl, rfl, rfl⟩

/-- `EnabledStepMoves`: with the invariant, the turn of requester 1, which waits for a held lock and has no step. -/
theorem witness_waiting_turn :
    let s := { busy (.rd 0 100) .ok .timeout with turns := [turn 1 .ok .timeout] }
    s.Inv ∧ TurnOf s (turn 1 .ok .timeout) [] (req (.acq 1 0x10 [0x03] 100) []) ∧ s.hasStep 1 = false :=
  have h := (witness_read .timeout).1
  ⟨⟨h.locksWf, h.lockIff, h.phases, h.results, h.config⟩, ⟨rfl, rfl, rfl⟩, rfl⟩

/-- `LockChangesOnlyByItsHolder`, its taking clause: with the invariant, a step that takes a lock. -/
theorem witness_lock_taken :
    let s := { launch (cfg false) 1 with
      requesters := [req (.acq 0 0x10 [0x03] 100) []], turns := [turn 0 .ok .timeout] }
    s.Inv ∧ (next? (step s)).map (fun t => (t.lock 0, s.lock 0)) = some (.held 0, .free)
      ∧ s.config.channels[0]? = some { address := 5, line := 0 } ∧ lockOf s.config 0 = 0 := by
  refine ⟨⟨.nil, fun k r => ⟨fun h => (by cases h), ?_⟩, fun q hq => ?_, fun q hq => ?_, fun _ => by
    show configRefused (cfg false) = false; decide⟩, by decide, rfl, rfl⟩
  · rintro ⟨q, hq, h⟩
    rw [List.mem_singleton.1 (List.mem_of_getElem? hq)] at h
    cases h
  · rw [List.mem_singleton.1 hq]
    exact ⟨by show 0 < numChannels (cfg false); decide, by show 1 ≤ maxPayload; decide⟩
  · rw [List.mem_singleton.1 hq]
    exact .inl rfl

/-- `MarkedStateHasNoStep`: after an answer too long for the receive path, requester 0 holds the lock for good. -/
theorem witness_marked :
    let s := { busy (.rd 0 100) .ok .timeout with refusalMark := some .responseTooLong }
    s.refusalMark = some .responseTooLong ∧ s.requesters[1]? = some (req (.acq 1 0x10 [0x03] 100) [])
      ∧ s.config.channels[1]? = some { address := 6, line := 0 } ∧ s.lock (lockOf s.config 0) = .held 0
      ∧ s.hasStep 0 = false := by decide

end Sys2Proof.Tests
end

section
/-! PROOFS of the family 00_scope: the fault mark and the refusal mark (O36, O52, O53). -/

namespace Sys2Proof.Machine

/-! ### The refusal mark stops every step (R11, R184) -/

theorem step_of_marked {s : State} {reason : RefusalReason} (hm : s.refusalMark = some reason) :
    step s = .refused (.marked reason) := by
  simp [step, hm]

theorem hasStep_of_marked {s : State} {reason : RefusalReason} (hm : s.refusalMark = some reason) (r : Nat) :
    s.hasStep r = false := by
  simp [State.hasStep, hm]

theorem not_over_of_marked {s : State} {reason : RefusalReason} (hm : s.refusalMark = some reason) : ¬ s.Over := by
  rintro ⟨-, -, -, hnone⟩
  cases hm.symm.trans hnone

/-! ### The fault mark is never cleared (R185) -/

/-- Issuing an operation leaves the fault mark alone: only a read can set it. -/
theorem faultMark_of_issueMove {s t : State} (h : IssueMove s t) : t.faultMark = s.faultMark := by
  cases h <;> rfl

/-- A requester's turn keeps the fault mark, except the read of an unwritten field, which sets it. -/
theorem faultMark_of_move {tn : Turn} {q : Requester} {s t : State} (h : Move tn q s t) :
    t.faultMark = s.faultMark ∨ t.faultMark = true := by
  cases h with
  | issue _ _ _ h => exact .inl ((faultMark_of_issueMove h).trans s.popPort_faultMark)
  | readUnwritten => exact .inr rfl
  | rest | wait | read | readConfig | readNoConfig | acquire | written | writeFailed | answered | tooLong =>
    exact .inl rfl

theorem step_keeps_faultMark {s t : State} (h : step s = .next t) (hf : s.faultMark = true) : t.faultMark = true := by
  obtain ⟨-, ⟨-, rfl⟩ | ⟨tn, rest, -, ⟨-, rfl⟩ | ⟨q, -, hmove⟩⟩⟩ := step_cases h
  · exact hf
  · exact hf
  · exact (faultMark_of_move hmove).elim (fun heq => heq.trans hf) id

/-! ### An answer longer than the receive path holds (D24) -/

theorem rxFits_bytes_of_lt {n : Nat} {m : Bytes} (h : n < m.length) : rxFits (some n) (.bytes m) = false :=
  decide_eq_false (Nat.not_le.2 h)

/-- In a state with the invariant, the channel of a requester that is to read has a route (10_state R23). -/
theorem exists_route_of_rd {s : State} (hinv : s.Inv) {r c : Nat} {q : Requester} {tmo : Millis}
    (hq : s.requesters[r]? = some q) (hp : q.phase = .rd c tmo) : ∃ rt, route s.config c = some rt := by
  have hlegal := hinv.phases q (List.mem_of_getElem? hq)
  rw [hp] at hlegal
  exact exists_route hlegal

/-- The turn of a requester that is to read is its read step, on the transport's answer of that turn (R143). -/
theorem step_of_rd {s : State} {tn : Turn} {rest : List Turn} {q : Requester} {c : Nat} {tmo : Millis}
    (h : TurnOf s tn rest q) (hp : q.phase = .rd c tmo) : step s = readStep c tn.rx (s.beginTurn tn rest) := by
  simp [step_of_turnOf h, requesterStep, hp]

/-! ### The obligations -/

/-- Settles O36: every move of a step keeps a set fault mark, and a marked state's step is refused. -/
theorem marksAreNeverCleared : Obligations.MarksAreNeverCleared :=
  ⟨fun _ _ => step_keeps_faultMark, fun _ _ => step_of_marked⟩

/-- Settles O52: by the invariant the reader's channel has a route, so its turn comes to the capacity check, which
fails. -/
theorem overlongResponseIsRefused : Obligations.OverlongResponseIsRefused := by
  intro s tn rest q c tmo m n hinv hturn hp hrx hcap hlen
  have ⟨_, _, hq⟩ := hturn
  obtain ⟨rt, hroute⟩ := exists_route_of_rd hinv hq hp
  have hfits : rxFits (s.beginTurn tn rest).config.rxCapacity tn.rx = false := by
    rw [State.beginTurn_config, hcap, hrx, rxFits_bytes_of_lt hlen]
  exact ⟨(step_of_rd hturn hp).trans (readStep_of_tooLong (s := s.beginTurn tn rest) hroute hfits),
    step_of_marked rfl⟩

/-- Settles O53: nobody has a step under the mark, the holder of a lock that another waits for included. -/
theorem markedStateHasNoStep : Obligations.MarkedStateHasNoStep := by
  intro s reason hm
  refine ⟨step_of_marked hm, hasStep_of_marked hm, not_over_of_marked hm, ?_⟩
  intro r h c q cmd payload tmo ch hq hp hch hheld
  exact ⟨r, h, q, c, cmd, payload, tmo, _, hq, hp, route_of_channel hch, hheld, hasStep_of_marked hm h⟩

end Sys2Proof.Machine
end

section
/-! PROOFS of the family 10_state: what a turn leaves unchanged, the invariant of locks, phases and results, and the
requester port (O6, O8, O20 to O23, O33 to O35, O37 to O40, O49). -/

namespace Sys2Proof.Machine

/-! ### What a turn leaves unchanged (R21, R27, R30) -/

theorem config_of_issueMove {s t : State} (h : IssueMove s t) : t.config = s.config := by
  cases h <;> rfl

theorem config_of_move {tn : Turn} {q : Requester} {s t : State} (h : Move tn q s t) : t.config = s.config := by
  cases h with
  | issue _ _ _ h => exact (config_of_issueMove h).trans s.popPort_config
  | rest | wait | read | readUnwritten | readConfig | readNoConfig | acquire | written | writeFailed | answered
  | tooLong => rfl

theorem hist_of_issueMove {s t : State} (h : IssueMove s t) : ∃ evs, t.hist = s.hist ++ evs := by
  cases h with
  | op => exact ⟨_, rfl⟩
  | refuse | tooLong | request => exact ⟨[], (List.append_nil _).symm⟩

theorem hist_of_move {tn : Turn} {q : Requester} {s t : State} (h : Move tn q s t) :
    ∃ evs, t.hist = s.hist ++ evs := by
  cases h with
  | issue _ _ _ h => exact hist_of_issueMove (s := s.popPort) h
  | acquire | written => exact ⟨_, rfl⟩
  | writeFailed | answered => exact ⟨_, List.append_assoc ..⟩
  | rest | wait | read | readUnwritten | readConfig | readNoConfig | tooLong => exact ⟨[], (List.append_nil _).symm⟩

/-- Issuing an operation changes the current requester's record alone, and not what its port holds. -/
theorem requesters_of_issueMove {s t : State} (h : IssueMove s t) :
    ∃ f : Requester → Requester, t.requesters = s.requesters.modify s.current f ∧ ∀ q, (f q).port = q.port := by
  cases h with
  | refuse => exact ⟨id, (List.modify_id ..).symm, fun _ => rfl⟩
  | op | tooLong | request => exact ⟨_, rfl, fun _ => rfl⟩

/-- The turn of an idle requester changes its record alone, and its port moves past the first action, if any. -/
theorem requesters_of_move_of_idle {tn : Turn} {q : Requester} {s t : State} (h : Move tn q s t)
    (hidle : q.phase = .idle) :
    ∃ f : Requester → Requester, t.requesters = s.requesters.modify s.current f ∧ (f q).port = q.port.tail := by
  cases h with
  | rest _ hport => exact ⟨id, (List.modify_id ..).symm, by simp [hport]⟩
  | issue _ _ _ h =>
    obtain ⟨f, hf, hport⟩ := requesters_of_issueMove h
    exact ⟨_, hf.trans (List.modify_modify_eq ..), hport _⟩
  | read | readConfig => exact ⟨_, List.modify_modify_eq .., rfl⟩
  | readUnwritten | readNoConfig => exact ⟨_, rfl, rfl⟩
  | wait _ _ _ _ _ hp | acquire _ _ _ _ _ hp | written _ _ _ _ hp | writeFailed _ _ _ _ _ hp | answered _ _ _ hp
  | tooLong _ _ hp => cases hidle.symm.trans hp

/-- The turn of a busy requester changes its record alone; its port waits, and its result is kept until its request
ends (R20, R24). -/
theorem requesters_of_move_of_busy {tn : Turn} {q : Requester} {s t : State} (h : Move tn q s t)
    (hbusy : q.phase ≠ .idle) :
    ∃ f : Requester → Requester, t.requesters = s.requesters.modify s.current f
      ∧ (f q).port = q.port ∧ (f q).lastRead = q.lastRead ∧ ((f q).phase ≠ .idle → (f q).result = q.result) := by
  cases h with
  | wait | tooLong => exact ⟨id, (List.modify_id ..).symm, rfl, rfl, fun _ => rfl⟩
  | acquire | written => exact ⟨_, rfl, rfl, rfl, fun _ => rfl⟩
  | writeFailed | answered => exact ⟨_, rfl, rfl, rfl, fun hne => absurd rfl hne⟩
  | rest hp | issue hp | read hp | readUnwritten hp | readConfig hp | readNoConfig hp => exact absurd hp hbusy

theorem requesters_of_move {tn : Turn} {q : Requester} {s t : State} (h : Move tn q s t) :
    ∃ f : Requester → Requester, t.requesters = s.requesters.modify s.current f := by
  by_cases hp : q.phase = .idle
  · obtain ⟨f, hf, -⟩ := requesters_of_move_of_idle h hp
    exact ⟨f, hf⟩
  · obtain ⟨f, hf, -⟩ := requesters_of_move_of_busy h hp
    exact ⟨f, hf⟩

/-- A step that takes a turn passes it, where no requester has the port index, or makes a move of the turn's
requester. -/
theorem step_cases_of_turn {s t : State} {tn : Turn} {rest : List Turn} (hturns : s.turns = tn :: rest)
    (h : step s = .next t) : t = s.beginTurn tn rest ∨
      ∃ q, s.requesters[tn.requester]? = some q ∧ Move tn q (s.beginTurn tn rest) t := by
  obtain ⟨-, ⟨hnil, -⟩ | ⟨tn', rest', hturns', hcase⟩⟩ := step_cases h
  · cases hturns.symm.trans hnil
  · cases hturns.symm.trans hturns'
    exact hcase.imp_left And.right

/-- A step changes at most the record of the requester whose turn it is (R21, R192). -/
theorem requesters_of_step {s t : State} {tn : Turn} {rest : List Turn} (hturns : s.turns = tn :: rest)
    (h : step s = .next t) : ∃ f : Requester → Requester, t.requesters = s.requesters.modify tn.requester f := by
  obtain rfl | ⟨q, -, hmove⟩ := step_cases_of_turn hturns h
  · exact ⟨id, (List.modify_id ..).symm⟩
  · exact requesters_of_move hmove

/-! ### The invariant (R29) -/

/-- The invariant reads the lock table, the requesters, the configuration and the refusal mark alone. -/
theorem inv_congr {s t : State} (hinv : s.Inv) (hlocks : t.locks = s.locks) (hreq : t.requesters = s.requesters)
    (hcfg : t.config = s.config) (hmark : t.refusalMark = none → s.refusalMark = none) : t.Inv := by
  refine ⟨hlocks ▸ hinv.locksWf, fun k r => ?_, ?_, hreq ▸ hinv.results, fun hm => hcfg ▸ hinv.config (hmark hm)⟩
  · rw [lock_congr hlocks, hreq, hcfg]
    exact hinv.lockIff k r
  · rw [hreq, hcfg]
    exact hinv.phases

theorem inv_beginTurn {s : State} (hinv : s.Inv) (tn : Turn) (rest : List Turn) : (s.beginTurn tn rest).Inv :=
  inv_congr hinv rfl rfl rfl id

theorem inv_refuse {s : State} (hinv : s.Inv) (reason : RefusalReason) : (s.refuse reason).Inv :=
  inv_congr hinv rfl rfl rfl nofun

/-- The invariant after a change of the current requester's record together with its locks: the new record is legal, it
holds exactly the domains its new phase says, and every other requester holds what it held (R29). -/
theorem inv_of_modify {s t : State} {q : Requester} {f : Requester → Requester} (hinv : s.Inv)
    (hq : s.requesters[s.current]? = some q) (hreq : t.requesters = s.requesters.modify s.current f)
    (hcfg : t.config = s.config) (hmark : t.refusalMark = s.refusalMark) (hwf : LocksWf t.locks)
    (hlock : ∀ k r, t.lock k = .held r ↔
      if r = s.current then (f q).phase.heldDomain? s.config = some k else s.lock k = .held r)
    (hphase : (f q).phase.Legal s.config) (hresult : (f q).result.Legal) : t.Inv := by
  have hcurrent : t.requesters[s.current]? = some (f q) := by simp [hreq, hq]
  have hother : ∀ r, r ≠ s.current → t.requesters[r]? = s.requesters[r]? := fun r hr => by simp [hreq, hr.symm]
  have hlegal : ∀ q' ∈ t.requesters, q'.phase.Legal s.config ∧ q'.result.Legal := by
    intro q' hmem
    obtain ⟨r, hr⟩ := List.mem_iff_getElem?.1 hmem
    by_cases hrc : r = s.current
    · cases (hrc ▸ hr).symm.trans hcurrent
      exact ⟨hphase, hresult⟩
    · have hmem' := List.mem_of_getElem? ((hother r hrc).symm.trans hr)
      exact ⟨hinv.phases q' hmem', hinv.results q' hmem'⟩
  refine ⟨hwf, fun k r => (hlock k r).trans ?_, fun q' h => hcfg ▸ (hlegal q' h).1, fun q' h => (hlegal q' h).2,
    fun hm => hcfg ▸ hinv.config (hmark ▸ hm)⟩
  rw [hcfg]
  split_ifs with hrc
  · simp [hrc, hcurrent]
  · rw [hother r hrc]
    exact hinv.lockIff k r

/-- The current requester holds a domain exactly when its phase says so. -/
theorem lock_eq_held_current_iff {s : State} {q : Requester} (hinv : s.Inv)
    (hq : s.requesters[s.current]? = some q) (k : Nat) :
    s.lock k = .held s.current ↔ q.phase.heldDomain? s.config = some k := by
  simp [hinv.lockIff, hq]

/-- A change of the current requester keeps the invariant when it keeps the domain that its phase holds. -/
theorem inv_updateCurrent {s : State} {q : Requester} {f : Requester → Requester} (hinv : s.Inv)
    (hq : s.requesters[s.current]? = some q)
    (hdomain : (f q).phase.heldDomain? s.config = q.phase.heldDomain? s.config)
    (hphase : (f q).phase.Legal s.config) (hresult : (f q).result.Legal) : (s.updateCurrent f).Inv := by
  refine inv_of_modify hinv hq rfl rfl rfl hinv.locksWf (fun k r => ?_) hphase hresult
  rw [lock_updateCurrent, hdomain]
  split_ifs with hr
  · rw [hr, lock_eq_held_current_iff hinv hq]
  · rfl

/-- A change of the current requester's port or of what it last read keeps the invariant. -/
theorem inv_updateCurrent_of_port {s : State} {q : Requester} {f : Requester → Requester} (hinv : s.Inv)
    (hq : s.requesters[s.current]? = some q) (hphase : (f q).phase = q.phase) (hresult : (f q).result = q.result) :
    (s.updateCurrent f).Inv :=
  have hmem := List.mem_of_getElem? hq
  inv_updateCurrent hinv hq (by rw [hphase]) (hphase ▸ hinv.phases q hmem) (hresult ▸ hinv.results q hmem)

theorem getElem?_popPort {s : State} {q : Requester} (hq : s.requesters[s.current]? = some q) :
    s.popPort.requesters[s.popPort.current]? = some { q with port := q.port.tail } := by
  simp [hq]

theorem inv_popPort {s : State} {q : Requester} (hinv : s.Inv) (hq : s.requesters[s.current]? = some q) :
    s.popPort.Inv :=
  inv_updateCurrent_of_port hinv hq rfl rfl

theorem inv_popPort_deliver {s : State} {q : Requester} (hinv : s.Inv) (hq : s.requesters[s.current]? = some q)
    (v : FieldValue) : (s.popPort.deliver v).Inv :=
  inv_updateCurrent_of_port (inv_popPort hinv hq) (getElem?_popPort hq) rfl rfl

/-- An idle requester's operation that ends at once leaves the locks as its phase says. -/
theorem inv_complete {s : State} {q : Requester} (hinv : s.Inv) (hissuing : Issuing s q) {res : Result}
    (hres : res.Legal) : (s.complete res).Inv := by
  obtain ⟨hq, hidle⟩ := hissuing
  exact inv_updateCurrent hinv hq (by rw [hidle]) trivial hres

theorem inv_of_issueMove {s t : State} {q : Requester} (hinv : s.Inv) (hissuing : Issuing s q) (h : IssueMove s t) :
    t.Inv := by
  cases h with
  | op opw res hres => exact inv_congr (inv_complete hinv hissuing hres) rfl rfl rfl id
  | refuse => exact inv_refuse hinv _
  | tooLong => exact inv_complete hinv hissuing (legal_error _)
  | request c cmd payload tmo hc hp =>
    obtain ⟨hq, hidle⟩ := hissuing
    exact inv_updateCurrent hinv hq (by rw [hidle]; rfl) ⟨hc, hp⟩ (hinv.results q (List.mem_of_getElem? hq))

/-- The domain a requester in `WR` or `RD` holds is that of its channel's route (R29). -/
theorem heldDomain?_of_route {cfg : Config} {p : Phase} {c : Nat} {rt : Route} (hp : p.holding? = some c)
    (hr : route cfg c = some rt) : p.heldDomain? cfg = some rt.domain := by
  simp [Phase.heldDomain?, hp, hr]

/-- R141 keeps the invariant: the free lock and the phase that holds it are taken together. -/
theorem inv_acquire {s : State} {q : Requester} {c : Nat} {cmd : Byte} {payload : Bytes} {tmo : Millis} {rt : Route}
    (hinv : s.Inv) (hq : s.requesters[s.current]? = some q) (hp : q.phase = .acq c cmd payload tmo)
    (hr : route s.config c = some rt) (hl : s.lock rt.domain = .free) :
    (((s.hold rt.domain).record (.acquire s.current rt.domain)).setPhase
      (.wr c (pkgBytes rt.address cmd payload) tmo)).Inv := by
  have hmem := List.mem_of_getElem? hq
  have hlegal := hinv.phases q hmem
  rw [hp] at hlegal
  refine inv_of_modify hinv hq rfl rfl rfl (locksWf_lockInsert _ _ hinv.locksWf) (fun k r => ?_)
    ⟨rt, cmd, payload, hr, hlegal.2, rfl⟩ (hinv.results q hmem)
  have hnone : s.lock k ≠ .held s.current := by
    rw [ne_eq, lock_eq_held_current_iff hinv hq, hp]
    nofun
  have hnew : (Phase.wr c (pkgBytes rt.address cmd payload) tmo).heldDomain? s.config = some rt.domain :=
    heldDomain?_of_route rfl hr
  rw [lock_setPhase, lock_record, lock_hold, hnew]
  by_cases hk : k = rt.domain
  · subst hk
    by_cases hrc : r = s.current
    · simp [hrc]
    · simp [hrc, hl, Ne.symm hrc]
  · by_cases hrc : r = s.current
    · simp [hrc, hk, hnone, Ne.symm hk]
    · simp [hrc, hk]

/-- R142, R143 keep the invariant: a request that ends gives up its lock and the phase that holds it together, whatever
event `e` it leaves before. -/
theorem inv_release_complete {s : State} {q : Requester} {c : Nat} {rt : Route} {res : Result} (hinv : s.Inv)
    (hq : s.requesters[s.current]? = some q) (hp : q.phase.holding? = some c) (hr : route s.config c = some rt)
    (e : Event) (hres : res.Legal) : (((s.record e).release rt.domain).complete res).Inv := by
  refine inv_of_modify hinv hq rfl rfl rfl (locksWf_lockErase _ hinv.locksWf) (fun k r => ?_) trivial hres
  have hheld : s.lock k = .held s.current ↔ rt.domain = k := by
    rw [lock_eq_held_current_iff hinv hq, heldDomain?_of_route hp hr, Option.some_inj]
  have hidle : Phase.idle.heldDomain? s.config = none := rfl
  rw [lock_complete, lock_release, lock_record, hidle]
  by_cases hk : k = rt.domain
  · by_cases hrc : r = s.current
    · simp [hrc, hk]
    · simp [hrc, hk, hk ▸ hheld.2 hk.symm, Ne.symm hrc]
  · by_cases hrc : r = s.current
    · simp [hrc, hk, hheld, Ne.symm hk]
    · simp [hrc, hk]

theorem inv_of_move {tn : Turn} {q : Requester} {s t : State} (hinv : s.Inv)
    (hq : s.requesters[s.current]? = some q) (h : Move tn q s t) : t.Inv := by
  cases h with
  | rest | wait => exact hinv
  | issue hp _ _ h => exact inv_of_issueMove (inv_popPort hinv hq) ⟨getElem?_popPort hq, hp⟩ h
  | read | readConfig => exact inv_popPort_deliver hinv hq _
  | readUnwritten => exact inv_congr (inv_popPort hinv hq) rfl rfl rfl id
  | readNoConfig => exact inv_popPort hinv hq
  | acquire c cmd payload tmo rt hp hr hl => exact inv_acquire hinv hq hp hr hl
  | written c pkg tmo rt hp hr =>
    obtain ⟨ch, hch, -⟩ := channel_of_route hr
    have hc : c < numChannels s.config := (List.getElem?_eq_some_iff.1 hch).1
    exact inv_updateCurrent (inv_congr hinv rfl rfl rfl id) hq (by rw [hp]; rfl) hc
      (hinv.results q (List.mem_of_getElem? hq))
  | writeFailed c pkg tmo rt st hp hr => exact inv_release_complete hinv hq (by rw [hp]; rfl) hr _ (legal_error st)
  | answered c tmo rt hp hr => exact inv_release_complete hinv hq (by rw [hp]; rfl) hr _ (legal_rxResult ..)
  | tooLong => exact inv_refuse hinv _

/-! ### The requester port (R21, R26, R195) -/

/-- The turn of an idle requester is its port's next action. -/
theorem step_of_idle {s : State} {tn : Turn} {rest : List Turn} {q : Requester} (h : TurnOf s tn rest q)
    (hidle : q.phase = .idle) : step s = portStep q (s.beginTurn tn rest) := by
  simp [step_of_turnOf h, requesterStep, hidle]

theorem portStep_of_issue {q : Requester} {rq : Request} {ps : List PortAction} (hport : q.port = .issue rq :: ps)
    (s : State) : portStep q s = issueStep rq s.popPort := by
  simp [portStep, hport]

theorem portStep_of_read {q : Requester} {f : ResultField} {ps : List PortAction} (hport : q.port = .read f :: ps)
    (s : State) : portStep q s = .next (readStepPort q.result f s.popPort) := by
  simp [portStep, hport]

theorem portStep_of_readConfig {q : Requester} {x : ConfigRegister} {ps : List PortAction}
    (hport : q.port = .readConfig x :: ps) (s : State) : portStep q s = .next (readConfigPort x s.popPort) := by
  simp [portStep, hport]

theorem issueStep_of_decode {s : State} {rq : Request} {i : Instr} (h : decode (numChannels s.config) rq = some i) :
    issueStep rq s = exec i s := by
  simp [issueStep, h]

/-- The port moves past its first action, and nothing else changes. -/
theorem popPort_effect {s : State} {q : Requester} {a : PortAction} {ps : List PortAction}
    (hq : s.requesters[s.current]? = some q) (hport : q.port = a :: ps) :
    OnlyCurrent s s.popPort { q with port := ps } s.locks [] := by
  have h := updateCurrent_effect hq fun q => { q with port := q.port.tail }
  rwa [hport] at h

/-- The port moves past a read and delivers its value, and nothing else changes. -/
theorem popPort_deliver_effect {s : State} {q : Requester} {a : PortAction} {ps : List PortAction}
    (hq : s.requesters[s.current]? = some q) (hport : q.port = a :: ps) (v : FieldValue) :
    OnlyCurrent s (s.popPort.deliver v) { q with port := ps, lastRead := some v } s.locks [] := by
  have h := updateCurrent_effect hq
    ((fun q => { q with lastRead := some v }) ∘ fun q => { q with port := q.port.tail })
  rw [← updateCurrent_updateCurrent, Function.comp_apply, hport] at h
  exact h

/-- A configuration read leaves the value of the register on the port, or what the port last delivered where the block
has no such register (log entry 23). -/
theorem readConfigPort_effect {s : State} {q : Requester} {a : PortAction} {ps : List PortAction}
    (hq : s.requesters[s.current]? = some q) (hport : q.port = a :: ps) (x : ConfigRegister) :
    OnlyCurrent s (readConfigPort x s.popPort)
      { q with port := ps, lastRead := (readConfigRegister s.config x).or q.lastRead } s.locks [] := by
  unfold readConfigPort
  rw [State.popPort_config]
  cases readConfigRegister s.config x with
  | none => exact popPort_effect hq hport
  | some v => exact popPort_deliver_effect hq hport v

theorem readField_eq_none_iff (res : Result) (f : ResultField) : readField res f = none ↔ FieldUnwritten res f := by
  cases f <;> simp [readField, FieldUnwritten]

/-! ### Issuing an operation -/

/-- A framer operation that is not refused has a result fixed by its operands and `STRICT_LENGTH` (R31, R64). -/
theorem exists_framerResult {i : Instr} (hframer : isFramer i = true) (hrefused : isRefused i = false) (strict : Bool) :
    ∃ res, ∀ s, s.config.strictLength = strict → exec i s = framerOp i res s := by
  cases i with
  | msgBuild | chkCalc | chkVerify => exact ⟨_, fun _ _ => rfl⟩
  | msgParse stream => exact ⟨msgParseResult strict stream, fun _ hs => hs ▸ rfl⟩
  | pkgParse stream => exact ⟨pkgParseResult strict stream, fun _ hs => hs ▸ rfl⟩
  | pkgBuild addr cmd payload =>
    exact ⟨_, fun _ _ => execPkgBuild_of_accepted (of_decide_eq_false hrefused) cmd payload⟩
  | chRequest => cases hframer

/-- An idle requester's operation answers a next state, whatever its operands. -/
theorem exists_next_of_exec {s : State} {q : Requester} (hissuing : Issuing s q) (i : Instr) :
    ∃ t, exec i s = .next t := by
  cases i with
  | msgBuild | msgParse | pkgParse | chkCalc | chkVerify => exact ⟨_, issued_of_issuing hissuing _⟩
  | pkgBuild =>
    simp only [exec, execPkgBuild]
    split_ifs <;> exact ⟨_, issued_of_issuing hissuing _⟩
  | chRequest =>
    simp only [exec, execChRequest]
    split_ifs <;> exact ⟨_, issued_of_issuing hissuing _⟩

/-! ### Every turn is taken, and moves exactly when its requester has a step (R20, R141, R214) -/

theorem exists_next_of_portStep {s : State} {q : Requester} (hissuing : Issuing s q) :
    ∃ t, portStep q s = .next t := by
  obtain ⟨hq, hidle⟩ := hissuing
  match hport : q.port with
  | [] => exact ⟨s, by simp [portStep, hport]⟩
  | .issue rq :: ps =>
    rw [portStep_of_issue hport, issueStep]
    split
    · exact exists_next_of_exec ⟨getElem?_popPort hq, hidle⟩ _
    · exact ⟨_, rfl⟩
  | .read f :: ps => exact ⟨_, portStep_of_read hport s⟩
  | .readConfig x :: ps => exact ⟨_, portStep_of_readConfig hport s⟩

theorem exists_next_of_acquireStep {s : State} {c : Nat} {rt : Route} (hr : route s.config c = some rt) (cmd : Byte)
    (payload : Bytes) (tmo : Millis) : ∃ t, acquireStep c cmd payload tmo s = .next t := by
  by_cases hl : s.lock rt.domain = .free
  · exact ⟨_, acquireStep_of_free hr hl ..⟩
  · exact ⟨_, acquireStep_of_held hr hl ..⟩

theorem exists_next_of_writeStep {s : State} {c : Nat} {rt : Route} (hr : route s.config c = some rt) (pkg : Bytes)
    (tmo : Millis) (w : TxOutcome) : ∃ t, writeStep c pkg tmo w s = .next t := by
  cases w with
  | ok => exact ⟨_, writeStep_of_ok hr ..⟩
  | timeout | ioError => exact ⟨_, writeStep_of_failure hr rfl ..⟩

theorem exists_next_of_readStep {s : State} {c : Nat} {rt : Route} (hr : route s.config c = some rt) (a : RxAnswer) :
    ∃ t, readStep c a s = .next t := by
  cases hf : rxFits s.config.rxCapacity a with
  | true => exact ⟨_, readStep_of_fits hr hf⟩
  | false => exact ⟨_, readStep_of_tooLong hr hf⟩

/-- A requester in a legal phase (R23) takes its turn: its channel exists, so no step of it faults. -/
theorem exists_next_of_requesterStep {s : State} {q : Requester} (tn : Turn) (hq : s.requesters[s.current]? = some q)
    (hlegal : q.phase.Legal s.config) : ∃ t, requesterStep tn q s = .next t := by
  unfold requesterStep
  cases hp : q.phase with
  | idle => exact exists_next_of_portStep ⟨hq, hp⟩
  | acq c cmd payload tmo =>
    rw [hp] at hlegal
    obtain ⟨rt, hr⟩ := exists_route hlegal.1
    exact exists_next_of_acquireStep hr ..
  | wr c pkg tmo =>
    rw [hp] at hlegal
    obtain ⟨rt, -, -, hr, -⟩ := hlegal
    exact exists_next_of_writeStep hr ..
  | rd c tmo =>
    rw [hp] at hlegal
    obtain ⟨rt, hr⟩ := exists_route hlegal
    exact exists_next_of_readStep hr _

/-- In a state with the invariant, the turn of a requester that exists is taken. -/
theorem exists_next_of_turnOf {s : State} {tn : Turn} {rest : List Turn} {q : Requester} (hinv : s.Inv)
    (h : TurnOf s tn rest q) : ∃ t, step s = .next t := by
  have ⟨_, _, hq⟩ := h
  rw [step_of_turnOf h]
  exact exists_next_of_requesterStep tn hq (hinv.phases q (List.mem_of_getElem? hq))

theorem hasStep_of_idle {s : State} {r : Nat} {q : Requester} (hm : s.refusalMark = none)
    (hq : s.requesters[r]? = some q) (hp : q.phase = .idle) : s.hasStep r = !q.port.isEmpty := by
  simp [State.hasStep, hm, hq, hp]

theorem hasStep_of_acq {s : State} {r c : Nat} {q : Requester} {cmd : Byte} {payload : Bytes} {tmo : Millis}
    {rt : Route} (hm : s.refusalMark = none) (hq : s.requesters[r]? = some q) (hp : q.phase = .acq c cmd payload tmo)
    (hr : route s.config c = some rt) : s.hasStep r = decide (s.lock rt.domain = .free) := by
  simp [State.hasStep, hm, hq, hp, hr]

/-- An idle requester's move leaves the state as it is exactly when its port holds nothing to do. -/
theorem eq_self_iff_of_move_of_idle {tn : Turn} {q : Requester} {s t : State} (h : Move tn q s t)
    (hq : s.requesters[s.current]? = some q) (hidle : q.phase = .idle) : t = s ↔ q.port = [] := by
  constructor
  · rintro rfl
    obtain ⟨f, hf, hport⟩ := requesters_of_move_of_idle h hidle
    have hfq : t.requesters[t.current]? = some (f q) := by
      rw [hf]
      simp [hq]
    rw [Option.some.inj (hfq.symm.trans hq)] at hport
    cases hp : q.port with
    | nil => rfl
    | cons a ps => simp [hp] at hport
  · intro hport
    cases h with
    | rest => rfl
    | issue _ _ hhead | read _ _ _ hhead | readUnwritten _ _ hhead | readConfig _ _ _ hhead
    | readNoConfig _ _ hhead =>
      rw [hport] at hhead
      cases hhead
    | wait _ _ _ _ _ hp | acquire _ _ _ _ _ hp | written _ _ _ _ hp | writeFailed _ _ _ _ _ hp | answered _ _ _ hp
    | tooLong _ _ hp => cases hidle.symm.trans hp

/-- A busy requester's move leaves the state as it is exactly when the requester waits for a held lock: every other one
adds an event or sets the refusal mark. -/
theorem eq_self_iff_of_move_of_busy {tn : Turn} {q : Requester} {s t : State} (h : Move tn q s t)
    (hm : s.refusalMark = none) (hq : s.requesters[s.current]? = some q) (hbusy : q.phase ≠ .idle) :
    t = s ↔ s.hasStep s.current = false := by
  have hholds {c : Nat} (hc : q.phase.holding? = some c) : s.hasStep s.current ≠ false := by
    simp [hasStep_of_holding hm hq hc]
  cases h with
  | wait c cmd payload tmo rt hp hr hl => simp [hasStep_of_acq hm hq hp hr, hl]
  | acquire c cmd payload tmo rt hp hr hl =>
    refine iff_of_false (fun heq => ?_) (by simp [hasStep_of_acq hm hq hp hr, hl])
    simpa using congrArg State.hist heq
  | written _ _ _ _ hp | writeFailed _ _ _ _ _ hp | answered _ _ _ hp =>
    refine iff_of_false (fun heq => ?_) (hholds (by rw [hp]; rfl))
    simpa using congrArg State.hist heq
  | tooLong _ _ hp =>
    refine iff_of_false (fun heq => ?_) (hholds (by rw [hp]; rfl))
    cases (congrArg State.refusalMark heq).trans hm
  | rest hp | issue hp | read hp | readUnwritten hp | readConfig hp | readNoConfig hp => exact absurd hp hbusy

/-- A requester's move leaves the state as it is exactly when the requester has no enabled step. -/
theorem eq_self_iff_of_move {tn : Turn} {q : Requester} {s t : State} (h : Move tn q s t)
    (hm : s.refusalMark = none) (hq : s.requesters[s.current]? = some q) :
    t = s ↔ s.hasStep s.current = false := by
  by_cases hidle : q.phase = .idle
  · rw [eq_self_iff_of_move_of_idle h hq hidle, hasStep_of_idle hm hq hidle]
    simp
  · exact eq_self_iff_of_move_of_busy h hm hq hidle

/-! ### Launches (R28) -/

/-- The three cases of R28, written out. -/
theorem configRefused_iff (cfg : Config) : configRefused cfg = true ↔
    (∃ ch ∈ cfg.channels, 31 < ch.address.toNat) ∨ (∃ ch ∈ cfg.channels, numLines cfg ≤ ch.line)
      ∨ (∃ ch ∈ cfg.channels, ch.line ∈ cfg.foreignLines) := by
  simp only [configRefused, Bool.or_eq_true, List.any_eq_true, decide_eq_true_eq, List.contains_iff_mem, or_assoc]
  rfl

theorem eq_reset_of_mem_launch {cfg : Config} {n : Nat} {q : Requester} (h : q ∈ (launch cfg n).requesters) :
    q = Requester.reset := List.eq_of_mem_replicate h

theorem refusalMark_launch_of_refused {cfg : Config} (h : configRefused cfg = true) (n : Nat) :
    (launch cfg n).refusalMark = some .configuration := if_pos h

theorem refusalMark_launch_of_allowed {cfg : Config} (h : configRefused cfg = false) (n : Nat) :
    (launch cfg n).refusalMark = none := if_neg (ne_true_of_eq_false h)

/-- With no turn to take, the block waits (70_reset R210). -/
theorem step_of_no_turn {s : State} (hm : s.refusalMark = none) (ht : s.turns = []) : step s = .next s := by
  simp [step, hm, ht]

/-- The turn of a port index that no requester has passes. -/
theorem turnStep_of_no_requester {s : State} (tn : Turn) (hq : s.requesters[s.current]? = none) :
    turnStep tn s = .next s := by
  simp [turnStep, State.currentRequester?, hq]

/-- After a launch that R28 allows, a turn passes, whoever's it is: nothing has been asked of the block yet. -/
theorem step_launch {cfg : Config} (h : configRefused cfg = false) (n : Nat) (tn : Turn) (rest : List Turn) :
    step { launch cfg n with turns := tn :: rest } = .next ((launch cfg n).beginTurn tn rest) := by
  have hm : ({ launch cfg n with turns := tn :: rest } : State).refusalMark = none :=
    refusalMark_launch_of_allowed h n
  cases hq : (launch cfg n).requesters[tn.requester]? with
  | none =>
    rw [step_of_turn hm rfl, turnStep_of_no_requester tn hq]
    rfl
  | some q =>
    cases eq_reset_of_mem_launch (List.mem_of_getElem? hq)
    rw [step_of_idle ⟨hm, rfl, hq⟩ rfl]
    rfl

/-- The invariant holds at every launch: every requester is idle, and no lock is held. -/
theorem inv_launch (cfg : Config) (n : Nat) : (launch cfg n).Inv := by
  refine ⟨List.Pairwise.nil, fun k r => ⟨nofun, ?_⟩, fun q hq => ?_, fun q hq => ?_, fun hm => ?_⟩
  · rintro ⟨q, hq, hheld⟩
    cases eq_reset_of_mem_launch (List.mem_of_getElem? hq)
    cases hheld
  · cases eq_reset_of_mem_launch hq
    trivial
  · cases eq_reset_of_mem_launch hq
    exact .inl rfl
  · by_contra hrefused
    cases (refusalMark_launch_of_refused (eq_true_of_ne_false hrefused) n).symm.trans hm

/-! ### The obligations -/

/-- Settles O39: each move gives the current requester a legal record and changes the locks as its new phase says. -/
theorem stepKeepsInvariant : Obligations.StepKeepsInvariant := by
  intro s t hinv h
  obtain ⟨-, ⟨-, rfl⟩ | ⟨tn, rest, -, ⟨-, rfl⟩ | ⟨q, hq, hmove⟩⟩⟩ := step_cases h
  · exact hinv
  · exact inv_beginTurn hinv tn rest
  · exact inv_of_move (inv_beginTurn hinv tn rest) hq hmove

/-- Settles O8: the launch carries the mark exactly in R28's three cases, and without it every turn passes. -/
theorem refusedConfigurationHasNoLaunch : Obligations.RefusedConfigurationHasNoLaunch := by
  intro cfg n turns
  rw [← configRefused_iff, Bool.not_eq_true]
  refine ⟨fun h => step_of_marked (refusalMark_launch_of_refused h n), fun h => ?_⟩
  have hmark := refusalMark_launch_of_allowed h n
  cases turns with
  | nil => exact ⟨_, step_of_no_turn hmark rfl, hmark⟩
  | cons tn rest => exact ⟨_, step_launch h n tn rest, hmark⟩

/-- Settles O20: the result is fixed before the state is known, and both requesters end with it. -/
theorem framerResultDependsOnOperandsOnly : Obligations.FramerResultDependsOnOperandsOnly := by
  intro i s s' q q' hframer hrefused hissuing hissuing' hstrict
  obtain ⟨res, hexec⟩ := exists_framerResult hframer hrefused s'.config.strictLength
  exact ⟨_, _, res, (hexec s hstrict).trans (framerOp_of_issuing hissuing i res),
    (hexec s' rfl).trans (framerOp_of_issuing hissuing' i res),
    completeOp_effect hissuing _ res, completeOp_effect hissuing' _ res⟩

/-- Settles O33: every move, the waiting ones too, is a change of the current requester's record. -/
theorem stepChangesOneRequesterOnly : Obligations.StepChangesOneRequesterOnly := by
  intro s t tn rest hturns h
  obtain ⟨f, hf⟩ := requesters_of_step hturns h
  exact ⟨by simp [hf], fun r hr => by simp [hf, hr.symm]⟩

/-- Settles O34: no move writes the configuration. -/
theorem configurationIsNeverWritten : Obligations.ConfigurationIsNeverWritten := by
  intro s t h
  obtain ⟨-, ⟨-, rfl⟩ | ⟨tn, rest, -, ⟨-, rfl⟩ | ⟨q, -, hmove⟩⟩⟩ := step_cases h
  · rfl
  · rfl
  · exact config_of_move (s := s.beginTurn tn rest) hmove

/-- Settles O35: every move appends its events, if any. -/
theorem historyOnlyGrows : Obligations.HistoryOnlyGrows := by
  intro s t h
  obtain ⟨-, ⟨-, rfl⟩ | ⟨tn, rest, -, ⟨-, rfl⟩ | ⟨q, -, hmove⟩⟩⟩ := step_cases h
  · exact ⟨[], by simp⟩
  · exact ⟨[], by simp⟩
  · exact hist_of_move (s := s.beginTurn tn rest) hmove

/-- Settles O37: a busy requester's own turn keeps its port, and its result unless it ends the request; no other
turn touches its record. -/
theorem busyRequesterIssuesNothing : Obligations.BusyRequesterIssuesNothing := by
  intro s t r q h hr hbusy
  obtain ⟨-, ⟨-, rfl⟩ | ⟨tn, rest, hturns, ⟨-, rfl⟩ | ⟨q₁, hq₁, hmove⟩⟩⟩ := step_cases h
  · exact ⟨q, hr, rfl, rfl, fun _ => rfl⟩
  · exact ⟨q, hr, rfl, rfl, fun _ => rfl⟩
  · by_cases hrt : r = tn.requester
    · subst hrt
      cases hr.symm.trans hq₁
      obtain ⟨f, hf, hrecord⟩ := requesters_of_move_of_busy hmove hbusy
      exact ⟨f q, by simp [hf, hr], hrecord⟩
    · have hkept := (stepChangesOneRequesterOnly s t tn rest hturns h).2 r hrt
      exact ⟨q, hkept.trans hr, rfl, rfl, fun _ => rfl⟩

/-- Settles O49: by the invariant no turn faults; then it is a move, and a move changes something exactly when its
requester has a step. -/
theorem enabledStepMoves : Obligations.EnabledStepMoves := by
  intro s tn rest q hinv hturn
  obtain ⟨t, ht⟩ := exists_next_of_turnOf hinv hturn
  exact ⟨t, ht, eq_self_iff_of_move (move_of_turnOf hturn ht) hturn.1 hturn.2.2⟩

/-- Settles O6: the state that `exec` runs at is the begun turn with the port moved on. -/
theorem stepRunsTheDecodedOperation : Obligations.StepRunsTheDecodedOperation := by
  intro s tn rest q rq ps i hturn hidle hport hdecode
  have heffect := popPort_effect (s := s.beginTurn tn rest) hturn.2.2 hport
  refine ⟨(s.beginTurn tn rest).popPort, ?_, ⟨heffect.1, hidle⟩, heffect⟩
  rw [step_of_idle hturn hidle, portStep_of_issue hport]
  exact issueStep_of_decode hdecode

/-- Settles O21: the read finds nothing, so the port moves on and the fault mark is set. -/
theorem readOfUnwrittenFieldFaults : Obligations.ReadOfUnwrittenFieldFaults := by
  intro s tn rest q f ps hturn hidle hport hnone
  refine ⟨(s.beginTurn tn rest).popPort.markFault, (s.beginTurn tn rest).popPort, ?_, rfl,
    popPort_effect hturn.2.2 hport⟩
  rw [step_of_idle hturn hidle, portStep_of_read hport, readStepPort, hnone]

/-- Settles O22: the read finds the field's value, and the port moves on and delivers it. -/
theorem readOfWrittenFieldDelivers : Obligations.ReadOfWrittenFieldDelivers := by
  refine ⟨readField_eq_none_iff, fun s tn rest q f v ps hturn hidle hport hholds => ?_⟩
  refine ⟨(s.beginTurn tn rest).popPort.deliver v, ?_, popPort_deliver_effect hturn.2.2 hport v⟩
  rw [step_of_idle hturn hidle, portStep_of_read hport, readStepPort, (readField_eq_some_iff ..).2 hholds]

/-- Settles O23: the port delivers what the register holds, and where the block has no such register keeps what it last
delivered. -/
theorem readOfConfigRegisterDelivers : Obligations.ReadOfConfigRegisterDelivers := by
  intro s tn rest q x ps hturn hidle hport
  refine ⟨readConfigPort x (s.beginTurn tn rest).popPort, (readConfigRegister s.config x).or q.lastRead, ?_,
    readConfigPort_effect (s := s.beginTurn tn rest) hturn.2.2 hport x, ?_⟩
  · rw [step_of_idle hturn hidle, portStep_of_readConfig hport]
  · cases x with
    | address c =>
      simp only [readConfigRegister, numChannels]
      split_ifs with hc <;> simp [hc]
    | line c =>
      simp only [readConfigRegister, numChannels]
      split_ifs with hc <;> simp [hc]
    | lockOf l =>
      simp only [readConfigRegister, numLines]
      split_ifs with hc <;> simp [hc, lockOf]
    | strictLength => rfl

/-- Settles O38: at a launch every requester is idle and every lock free, and reset is a launch. -/
theorem launchHasInvariant : Obligations.LaunchHasInvariant :=
  ⟨inv_launch, reset_eq_launch ▸ inv_launch resetConfig 1⟩

/-- Settles O40: by the invariant both hold the one lock of the domain. -/
theorem atMostOneHolder : Obligations.AtMostOneHolder := by
  intro s k r r' q q' hinv hq hq' hheld hheld'
  have hr : s.lock k = .held r := (hinv.lockIff k r).2 ⟨q, hq, hheld⟩
  have hr' : s.lock k = .held r' := (hinv.lockIff k r').2 ⟨q', hq', hheld'⟩
  exact LockState.held.inj (hr.symm.trans hr')

end Sys2Proof.Machine
end

section
/-! PROOFS of the family 20_memory: the lock domain a request moves in, and the order of the events of each lock domain
(O41, O42, O45 to O47). -/

namespace Sys2Proof.Machine

/-! ### The lock domain of an event and of a request (R59) -/

/-- The lock domain an event belongs to; a framer operation belongs to none (20_memory R59, R64). -/
def Event.domain? (cfg : Config) : Event → Option Nat
  | .acquire _ k => some k
  | .tx _ line _ _ => some (lockOf cfg line)
  | .rx _ line _ => some (lockOf cfg line)
  | .release _ k => some k
  | .op _ _ _ => none

/-- The channel a request is on, waiting for its lock or holding it (10_state R23). -/
def Phase.channel? : Phase → Option Nat
  | .idle => none
  | .acq c _ _ _ => some c
  | .wr c _ _ => some c
  | .rd c _ => some c

/-- The lock domain a request moves in: that of its channel's route. -/
def Phase.domain? (cfg : Config) (p : Phase) : Option Nat :=
  p.channel?.bind fun c => (route cfg c).map Route.domain

theorem domain?_of_route {cfg : Config} {p : Phase} {c : Nat} {rt : Route} (hp : p.channel? = some c)
    (hr : route cfg c = some rt) : p.domain? cfg = some rt.domain := by
  simp [Phase.domain?, hp, hr]

theorem channel?_of_holding? {p : Phase} {c : Nat} (h : p.holding? = some c) : p.channel? = some c := by
  cases p with
  | idle | acq => cases h
  | wr | rd => exact h

/-- The domain a request holds is the one it moves in. -/
theorem domain?_of_heldDomain? {cfg : Config} {p : Phase} {k : Nat} (h : p.heldDomain? cfg = some k) :
    p.domain? cfg = some k := by
  obtain ⟨c, hc, hr⟩ := Option.bind_eq_some_iff.1 h
  exact Option.bind_eq_some_iff.2 ⟨c, channel?_of_holding? hc, hr⟩

theorem route_domain_eq_lockOf {cfg : Config} {c : Nat} {rt : Route} (h : route cfg c = some rt) :
    rt.domain = lockOf cfg rt.line := by
  obtain ⟨ch, -, rfl⟩ := channel_of_route h
  rfl

/-! ### What a turn does to the locks and to the history -/

/-- `t` is `s` after the current requester, with record `q`, took the free lock `k` it waited for (R141). -/
def TakesLock (s t : State) (q : Requester) (k : Nat) : Prop :=
  s.lock k = .free ∧ t.lock k = .held s.current
    ∧ ∃ c cmd payload tmo rt, q.phase = .acq c cmd payload tmo ∧ route s.config c = some rt ∧ rt.domain = k

/-- `t` is `s` after the current requester, with record `q`, ended a request that held lock `k` (R142, R143). -/
def EndsHolding (s t : State) (q : Requester) (k : Nat) : Prop :=
  q.phase.heldDomain? s.config = some k ∧ t.lock k = .free
    ∧ ∃ res, t.requesters = s.requesters.modify s.current fun q => { q with phase := .idle, result := res }

theorem locks_of_issueMove {s t : State} (h : IssueMove s t) : t.locks = s.locks := by
  cases h <;> rfl

/-- The end of a request that holds its lock gives up that lock and leaves every other one as it was. -/
theorem lock_release_complete_cases {s : State} {q : Requester} {c : Nat} {rt : Route} (hp : q.phase.holding? = some c)
    (hr : route s.config c = some rt) (e : Event) (res : Result) (k : Nat) :
    (((s.record e).release rt.domain).complete res).lock k = s.lock k
      ∨ EndsHolding s (((s.record e).release rt.domain).complete res) q k := by
  by_cases hk : k = rt.domain
  · subst hk
    exact .inr ⟨heldDomain?_of_route hp hr, by simp, res, rfl⟩
  · exact .inl (by simp [hk])

/-- A turn leaves a lock as it was, takes it while it is free, or gives it up with the request that held it. -/
theorem lock_of_move {tn : Turn} {q : Requester} {s t : State} (h : Move tn q s t) (k : Nat) :
    t.lock k = s.lock k ∨ TakesLock s t q k ∨ EndsHolding s t q k := by
  cases h with
  | issue _ _ _ h => exact .inl (lock_congr ((locks_of_issueMove h).trans s.popPort_locks) k)
  | acquire c cmd payload tmo rt hp hr hl =>
    by_cases hk : k = rt.domain
    · subst hk
      exact .inr (.inl ⟨hl, by simp, c, cmd, payload, tmo, rt, hp, hr, rfl⟩)
    · exact .inl (by simp [hk])
  | writeFailed c pkg tmo rt st hp hr => exact (lock_release_complete_cases (by rw [hp]; rfl) hr _ _ k).imp_right .inr
  | answered c tmo rt hp hr => exact (lock_release_complete_cases (by rw [hp]; rfl) hr _ _ k).imp_right .inr
  | rest | wait | read | readUnwritten | readConfig | readNoConfig | written | tooLong => exact .inl rfl

/-- A turn changes no lock but that of the domain its request moves in (R59). -/
theorem lock_of_move_of_domain?_ne {tn : Turn} {q : Requester} {s t : State} (h : Move tn q s t) {k : Nat}
    (hk : q.phase.domain? s.config ≠ some k) : t.lock k = s.lock k := by
  obtain hsame | ⟨-, -, c, cmd, payload, tmo, rt, hp, hr, hrt⟩ | ⟨hheld, -⟩ := lock_of_move h k
  · exact hsame
  · exact absurd (hrt ▸ domain?_of_route (by rw [hp]; rfl) hr) hk
  · exact absurd (domain?_of_heldDomain? hheld) hk

/-- Issuing an operation appends no event that belongs to a lock domain. -/
theorem events_of_issueMove {s t : State} (h : IssueMove s t) :
    ∃ evs, t.hist = s.hist ++ evs ∧ ∀ e ∈ evs, e.domain? s.config = none := by
  cases h with
  | op => exact ⟨_, rfl, by simp [Event.domain?]⟩
  | refuse | tooLong | request => exact ⟨[], (List.append_nil _).symm, nofun⟩

/-- Every event a turn appends is a framer operation or belongs to the domain its request moves in (R59). -/
theorem events_of_move {tn : Turn} {q : Requester} {s t : State} (h : Move tn q s t) :
    ∃ evs, t.hist = s.hist ++ evs
      ∧ ∀ e ∈ evs, e.domain? s.config = none ∨ e.domain? s.config = q.phase.domain? s.config := by
  cases h with
  | issue _ _ _ h =>
    obtain ⟨evs, hhist, hevs⟩ := events_of_issueMove h
    exact ⟨evs, hhist, fun e he => .inl (hevs e he)⟩
  | acquire _ _ _ _ _ hp hr | written _ _ _ _ hp hr =>
    have hown := domain?_of_route (p := q.phase) (by rw [hp]; rfl) hr
    exact ⟨_, rfl, by simp [Event.domain?, ← route_domain_eq_lockOf hr, hown]⟩
  | writeFailed _ _ _ _ _ hp hr | answered _ _ _ hp hr =>
    have hown := domain?_of_route (p := q.phase) (by rw [hp]; rfl) hr
    exact ⟨_, List.append_assoc .., by simp [Event.domain?, ← route_domain_eq_lockOf hr, hown]⟩
  | rest | wait | read | readUnwritten | readConfig | readNoConfig | tooLong =>
    exact ⟨[], (List.append_nil _).symm, by simp⟩

/-! ### The order of events in one lock domain (R57, R58) -/

/-- An event outside domain `k` leaves the domain where it stands. -/
theorem after_of_domain?_ne {cfg : Config} {k : Nat} {e : Event} (h : e.domain? cfg ≠ some k) (x : Exchange) :
    x.after cfg k e = some x := by
  cases e with
  | op => rfl
  | acquire | release | tx | rx => exact if_pos fun heq => h (congrArg some heq)

/-- Events outside domain `k` leave the domain where it stands. -/
theorem exchangeAfter_of_domain?_ne {cfg : Config} {k : Nat} {evs : List Event}
    (h : ∀ e ∈ evs, e.domain? cfg ≠ some k) (x : Exchange) : exchangeAfter cfg k x evs = some x := by
  induction evs with
  | nil => rfl
  | cons e rest ih =>
    obtain ⟨he, hrest⟩ := List.forall_mem_cons.1 h
    simp [exchangeAfter, after_of_domain?_ne he, ih hrest]

/-- A turn appends no event of a domain other than the one its request moves in (R59). -/
theorem exchangeAfter_of_move_of_domain?_ne {tn : Turn} {q : Requester} {s t : State} (h : Move tn q s t) {k : Nat}
    (hk : q.phase.domain? s.config ≠ some k) (x : Exchange) :
    exchangeAfter s.config k x t.hist = exchangeAfter s.config k x s.hist := by
  obtain ⟨evs, hhist, hevs⟩ := events_of_move h
  have hother : ∀ e ∈ evs, e.domain? s.config ≠ some k := fun e he heq => by
    obtain hnone | hown := hevs e he
    · cases hnone.symm.trans heq
    · exact hk (hown.symm.trans heq)
  rw [hhist, exchangeAfter_append]
  cases exchangeAfter s.config k x s.hist with
  | none => rfl
  | some y => exact exchangeAfter_of_domain?_ne hother y

/-- The history keeps the order in domain `k` and stands where the state says: `State.HistoryOrdered` at one domain. -/
def State.OrderedAt (s : State) (k : Nat) : Prop :=
  ∃ x, exchangeAfter s.config k .none s.hist = some x ∧ x.Matches s k

/-- The order is kept in a domain whose lock, holder and events a step leaves alone. -/
theorem Exchange.Matches.congr {s t : State} {k : Nat} {x : Exchange} (h : x.Matches s k)
    (hlock : t.lock k = s.lock k) (hholder : ∀ r, s.lock k = .held r → t.requesters[r]? = s.requesters[r]?) :
    x.Matches t k := by
  cases x with
  | none => exact hlock.trans h
  | acquired r | written r =>
    obtain ⟨hheld, q, hphase⟩ := h
    exact ⟨hlock.trans hheld, q, by rwa [hholder r hheld]⟩
  | closing => exact h

/-- The holder of a domain other than the one the current request moves in is another requester, so the turn leaves its
record alone (R192). -/
theorem holder_of_move_of_domain?_ne {tn : Turn} {q : Requester} {s t : State} (hinv : s.Inv)
    (hq : s.requesters[s.current]? = some q) (h : Move tn q s t) {k : Nat} (hk : q.phase.domain? s.config ≠ some k)
    {r : Nat} (hheld : s.lock k = .held r) : t.requesters[r]? = s.requesters[r]? := by
  have hne : s.current ≠ r := by
    rintro rfl
    exact hk (domain?_of_heldDomain? ((lock_eq_held_current_iff hinv hq k).1 hheld))
  obtain ⟨f, hf⟩ := requesters_of_move h
  simp [hf, hne]

theorem orderedAt_of_move_of_domain?_ne {tn : Turn} {q : Requester} {s t : State} (hinv : s.Inv)
    (hq : s.requesters[s.current]? = some q) (h : Move tn q s t) {k : Nat} (hk : q.phase.domain? s.config ≠ some k)
    (hord : s.OrderedAt k) : t.OrderedAt k := by
  obtain ⟨x, hx, hmatch⟩ := hord
  refine ⟨x, ?_, hmatch.congr (lock_of_move_of_domain?_ne h hk) fun r => holder_of_move_of_domain?_ne hinv hq h hk⟩
  rw [config_of_move h, exchangeAfter_of_move_of_domain?_ne h hk, hx]

/-- With the lock free no exchange is open. -/
theorem eq_none_of_matches {s : State} {k : Nat} {x : Exchange} (h : x.Matches s k) (hl : s.lock k = .free) :
    x = .none := by
  have hlock := (lock_of_matches h).symm.trans hl
  cases x with
  | none => rfl
  | acquired | written | closing => cases hlock

/-- While the holder is to write, its exchange stands at `Acquire`. -/
theorem eq_acquired_of_matches {s : State} {k r c : Nat} {x : Exchange} {q : Requester} {pkg : Bytes} {tmo : Millis}
    (h : x.Matches s k) (hl : s.lock k = .held r) (hq : s.requesters[r]? = some q) (hp : q.phase = .wr c pkg tmo) :
    x = .acquired r := by
  have hlock := (lock_of_matches h).symm.trans hl
  cases x with
  | none => cases hlock
  | closing => exact h.elim
  | acquired => exact congrArg _ (LockState.held.inj hlock)
  | written =>
    cases hlock
    obtain ⟨-, q', c', tmo', hq', hp'⟩ := h
    cases hq.symm.trans hq'
    cases hp.symm.trans hp'

/-- While the holder is to read, its exchange stands at `Tx`. -/
theorem eq_written_of_matches {s : State} {k r c : Nat} {x : Exchange} {q : Requester} {tmo : Millis}
    (h : x.Matches s k) (hl : s.lock k = .held r) (hq : s.requesters[r]? = some q) (hp : q.phase = .rd c tmo) :
    x = .written r := by
  have hlock := (lock_of_matches h).symm.trans hl
  cases x with
  | none => cases hlock
  | closing => exact h.elim
  | written => exact congrArg _ (LockState.held.inj hlock)
  | acquired =>
    cases hlock
    obtain ⟨-, q', c', pkg', tmo', hq', hp'⟩ := h
    cases hq.symm.trans hq'
    cases hp.symm.trans hp'

theorem after_acquire (cfg : Config) (k r : Nat) : Exchange.none.after cfg k (.acquire r k) = some (.acquired r) := by
  simp [Exchange.after]

theorem after_tx (cfg : Config) (r line : Nat) (pkg : Bytes) (w : TxOutcome) :
    (Exchange.acquired r).after cfg (lockOf cfg line) (.tx r line pkg w)
      = some (if w = .ok then .written r else .closing r) := by
  simp [Exchange.after]

theorem after_rx (cfg : Config) (r line : Nat) (a : RxAnswer) :
    (Exchange.written r).after cfg (lockOf cfg line) (.rx r line a) = some (.closing r) := by
  simp [Exchange.after]

theorem after_release (cfg : Config) (k r : Nat) : (Exchange.closing r).after cfg k (.release r k) = some .none := by
  simp [Exchange.after]

/-- R141 opens an exchange: the lock was free, so none was open. -/
theorem orderedAt_acquire {s : State} {q : Requester} {k c : Nat} {pkg : Bytes} {tmo : Millis}
    (hq : s.requesters[s.current]? = some q) (hl : s.lock k = .free) (hord : s.OrderedAt k) :
    (((s.hold k).record (.acquire s.current k)).setPhase (.wr c pkg tmo)).OrderedAt k := by
  obtain ⟨x, hx, hmatch⟩ := hord
  cases eq_none_of_matches hmatch hl
  exact ⟨.acquired s.current, (exchangeAfter_concat hx _).trans (after_acquire ..), by simp,
    { q with phase := .wr c pkg tmo }, c, pkg, tmo, by simp [hq], rfl⟩

/-- R142 with a write that succeeded: the exchange goes on to its read. -/
theorem orderedAt_written {s : State} {q : Requester} {line c : Nat} {pkg : Bytes} {tmo : Millis}
    (hq : s.requesters[s.current]? = some q) (hp : q.phase = .wr c pkg tmo)
    (hl : s.lock (lockOf s.config line) = .held s.current) (hord : s.OrderedAt (lockOf s.config line)) :
    ((s.record (.tx s.current line pkg .ok)).setPhase (.rd c tmo)).OrderedAt (lockOf s.config line) := by
  obtain ⟨x, hx, hmatch⟩ := hord
  cases eq_acquired_of_matches hmatch hl hq hp
  exact ⟨.written s.current, (exchangeAfter_concat hx _).trans (after_tx ..), hl,
    { q with phase := .rd c tmo }, c, tmo, by simp [hq], rfl⟩

/-- The last call `e` of an exchange and its release close it (R142, R143). -/
theorem orderedAt_release {s : State} {k : Nat} {x : Exchange} {e : Event}
    (hx : exchangeAfter s.config k .none s.hist = some x) (he : x.after s.config k e = some (.closing s.current))
    (res : Result) : (((s.record e).release k).complete res).OrderedAt k :=
  ⟨.none, (exchangeAfter_concat₂ hx he _).trans (after_release ..), by simp [Exchange.Matches]⟩

theorem ne_ok_of_txFailure {w : TxOutcome} {st : Status} (h : txFailure w = some st) : w ≠ .ok := by
  rintro rfl
  cases h

/-- A turn keeps the order in the domain its request moves in: each of its events is the next of its exchange. -/
theorem orderedAt_of_move_of_domain? {tn : Turn} {q : Requester} {s t : State} (hinv : s.Inv)
    (hq : s.requesters[s.current]? = some q) (h : Move tn q s t) {k : Nat} (hk : q.phase.domain? s.config = some k)
    (hord : s.OrderedAt k) : t.OrderedAt k := by
  have hheld {c : Nat} {rt : Route} (hc : q.phase.holding? = some c) (hr : route s.config c = some rt) :
      lockOf s.config rt.line = k ∧ s.lock k = .held s.current := by
    cases hk.symm.trans (domain?_of_route (channel?_of_holding? hc) hr)
    exact ⟨(route_domain_eq_lockOf hr).symm, (lock_eq_held_current_iff hinv hq _).2 (heldDomain?_of_route hc hr)⟩
  cases h with
  | wait | tooLong => exact hord
  | acquire c cmd payload tmo rt hp hr hl =>
    cases hk.symm.trans (domain?_of_route (by rw [hp]; rfl) hr)
    exact orderedAt_acquire hq hl hord
  | written c pkg tmo rt hp hr hw =>
    obtain ⟨rfl, hl⟩ := hheld (by rw [hp]; rfl) hr
    rw [hw]
    exact orderedAt_written hq hp hl hord
  | writeFailed c pkg tmo rt st hp hr hw =>
    obtain ⟨rfl, hl⟩ := hheld (by rw [hp]; rfl) hr
    obtain ⟨x, hx, hmatch⟩ := hord
    cases eq_acquired_of_matches hmatch hl hq hp
    rw [route_domain_eq_lockOf hr]
    exact orderedAt_release hx ((after_tx ..).trans (by rw [if_neg (ne_ok_of_txFailure hw)])) _
  | answered c tmo rt hp hr =>
    obtain ⟨rfl, hl⟩ := hheld (by rw [hp]; rfl) hr
    obtain ⟨x, hx, hmatch⟩ := hord
    cases eq_written_of_matches hmatch hl hq hp
    rw [route_domain_eq_lockOf hr]
    exact orderedAt_release hx (after_rx ..) _
  | rest hp | issue hp | read hp | readUnwritten hp | readConfig hp | readNoConfig hp =>
    rw [hp] at hk
    cases hk

theorem historyOrdered_of_move {tn : Turn} {q : Requester} {s t : State} (hinv : s.Inv)
    (hq : s.requesters[s.current]? = some q) (h : Move tn q s t) (hord : s.HistoryOrdered) : t.HistoryOrdered := by
  intro k
  by_cases hk : q.phase.domain? s.config = some k
  · exact orderedAt_of_move_of_domain? hinv hq h hk (hord k)
  · exact orderedAt_of_move_of_domain?_ne hinv hq h hk (hord k)

/-! ### The answer of an exchange (R60) -/

theorem rx_notMem_of_issueMove {s t : State} (h : IssueMove s t) {evs : List Event} (hhist : t.hist = s.hist ++ evs)
    (r line : Nat) (a : RxAnswer) : Event.rx r line a ∉ evs := by
  obtain ⟨evs', hhist', hevs⟩ := events_of_issueMove h
  cases List.append_cancel_left (hhist.symm.trans hhist')
  exact fun hmem => by cases hevs _ hmem

/-- The only turn that appends an `Rx` event is R143's: the requester that is to read from the event's line ends its
request with the result of the answer. -/
theorem rx_of_move {tn : Turn} {q : Requester} {s t : State} (h : Move tn q s t) {evs : List Event}
    (hhist : t.hist = s.hist ++ evs) {r line : Nat} {a : RxAnswer} (hmem : Event.rx r line a ∈ evs) :
    r = s.current ∧ q.phase.heldDomain? s.config = some (lockOf s.config line)
      ∧ t.requesters = s.requesters.modify s.current fun q =>
          { q with phase := .idle, result := rxResult s.config.strictLength a } := by
  have heq {evs'} (h' : t.hist = s.hist ++ evs') : Event.rx r line a ∈ evs' :=
    List.append_cancel_left (hhist.symm.trans h') ▸ hmem
  cases h with
  | issue _ _ _ h => exact absurd hmem (rx_notMem_of_issueMove (s := s.popPort) h hhist r line a)
  | answered c tmo rt hp hr =>
    have hmem' := heq (List.append_assoc ..)
    simp only [List.cons_append, List.nil_append, List.mem_cons, Event.rx.injEq, reduceCtorEq, List.not_mem_nil,
      or_false] at hmem'
    obtain ⟨rfl, rfl, rfl⟩ := hmem'
    exact ⟨rfl, route_domain_eq_lockOf hr ▸ heldDomain?_of_route (by rw [hp]; rfl) hr, rfl⟩
  | acquire | written => simpa using heq rfl
  | writeFailed => simpa using heq (List.append_assoc ..)
  | rest | wait | read | readUnwritten | readConfig | readNoConfig | tooLong =>
    cases heq (List.append_nil _).symm

/-! ### The obligations -/

/-- Settles O41: in the domain its request moves in, a turn's events are the next ones of its exchange, and in every
other domain nothing happens. -/
theorem stepKeepsHistoryOrder : Obligations.StepKeepsHistoryOrder := by
  intro s t hinv hord h
  obtain ⟨-, ⟨-, rfl⟩ | ⟨tn, rest, -, ⟨-, rfl⟩ | ⟨q, hq, hmove⟩⟩⟩ := step_cases h
  · exact hord
  · exact hord
  · exact historyOrdered_of_move (inv_beginTurn hinv tn rest) hq hmove hord

/-- Settles O42: at a launch no event is recorded and every lock is free. -/
theorem launchHistoryOrdered : Obligations.LaunchHistoryOrdered :=
  fun _ _ => ⟨fun _ => ⟨.none, rfl, rfl⟩, nofun⟩

/-- Settles O45: a turn that changes a lock takes it for a request that waited for it, or ends a request that by the
invariant held it. -/
theorem lockChangesOnlyByItsHolder : Obligations.LockChangesOnlyByItsHolder := by
  intro s t k hinv h hne
  obtain ⟨-, ⟨-, rfl⟩ | ⟨tn, rest, hturns, ⟨-, rfl⟩ | ⟨q, hq, hmove⟩⟩⟩ := step_cases h
  · exact absurd rfl hne
  · exact absurd rfl hne
  · obtain hsame | ⟨hfree, hheld, c, cmd, payload, tmo, rt, hp, hr, rfl⟩ | ⟨hheld, hfree, res, hreq⟩ :=
      lock_of_move hmove k
    · exact absurd hsame hne
    · obtain ⟨f, hf⟩ := requesters_of_step hturns h
      obtain ⟨ch, hch, rfl⟩ := channel_of_route hr
      exact ⟨tn, rest, q, f q, hturns, hq, by simp [hf, hq],
        .inl ⟨hfree, hheld, c, cmd, payload, tmo, ch, hp, hch, rfl⟩⟩
    · have hlock := (lock_eq_held_current_iff (inv_beginTurn hinv tn rest) hq k).2 hheld
      exact ⟨tn, rest, q, _, hturns, hq, by simp [hreq, hq]; rfl, .inr ⟨hlock, hfree, rfl⟩⟩

/-- Settles O46: the `Rx` event is of the reader's own turn, and by the invariant the reader held the lock. -/
theorem responseGoesToTheHolder : Obligations.ResponseGoesToTheHolder := by
  intro s t r line a evs hinv h hhist hmem
  have hnew : t.hist ≠ s.hist := fun heq => by
    cases List.append_right_eq_self.1 (hhist.symm.trans heq)
    cases hmem
  obtain ⟨-, ⟨-, rfl⟩ | ⟨tn, rest, hturns, ⟨-, rfl⟩ | ⟨q, hq, hmove⟩⟩⟩ := step_cases h
  · exact absurd rfl hnew
  · exact absurd rfl hnew
  · obtain ⟨rfl, hheld, hreq⟩ := rx_of_move hmove hhist hmem
    exact ⟨(lock_eq_held_current_iff (inv_beginTurn hinv tn rest) hq _).2 hheld, by simp [hreq, hq],
      (stepChangesOneRequesterOnly s t tn rest hturns h).2⟩

/-- Settles O47: the request on channel `c` moves in the domain of `c`'s line, and its turn leaves the others alone. -/
theorem otherDomainsAreUntouched : Obligations.OtherDomainsAreUntouched := by
  intro s t tn rest q c ch k hturn h hch hk hphase
  have hmove := move_of_turnOf hturn h
  have hc : q.phase.channel? = some c := by
    obtain ⟨cmd, payload, tmo, hp⟩ | hholds := hphase
    · rw [hp]
      rfl
    · exact channel?_of_holding? hholds
  have hother : q.phase.domain? s.config ≠ some k := by
    rw [domain?_of_route hc (route_of_channel hch)]
    exact fun heq => hk (Option.some.inj heq).symm
  exact ⟨lock_of_move_of_domain?_ne hmove hother, exchangeAfter_of_move_of_domain?_ne hmove hother⟩

end Sys2Proof.Machine
end

section
/-! PROOFS of the family 30_encoding: the decoder against the encoder, the illegal words, and the packages handed to the
transport (O1 to O5, O43). -/

namespace Sys2Proof.Machine

/-! ### Decoding what was encoded (R78, R81, R86) -/

/-- A word packed from four fields is decoded from those fields. -/
theorem decode_packWord (n : Nat) (op addr cmd chan : Byte) (data : Bytes) (tmo : Millis) :
    decode n { opw := packWord op addr cmd chan, dataIn := data, timeoutMs := tmo }
      = (decodeFields n op addr cmd chan data tmo).toOption := by
  simp [decode, decodeRequest, opwOp_packWord, opwAddr_packWord, opwCmd_packWord, opwChan_packWord]

theorem decode_encode {n : Nat} {i : Instr} (h : i.wellFormed n = true) : decode n (encode i) = some i := by
  cases i with
  | msgBuild | msgParse | pkgBuild | pkgParse | chkCalc | chkVerify => exact decode_packWord ..
  | chRequest chan cmd payload tmo =>
    have hchan : chan.toNat < n := of_decide_eq_true h
    exact (decode_packWord ..).trans (congrArg Except.toOption (if_pos hchan))

/-! ### Every bit of a legal word is in its operation (R79, R82, R86) -/

theorem toOption_ok {ε α : Type} (a : α) : (.ok a : Except ε α).toOption = some a := rfl

theorem toOption_eq_some_iff {ε α : Type} {x : Except ε α} {a : α} : x.toOption = some a ↔ x = .ok a := by
  cases x <;> simp [Except.toOption]

/-- A row of the operation map that answers an operation met its must-be-zero condition (R82). -/
theorem of_ite_eq_ok {p : Prop} [Decidable p] {x : Except DecodeError Instr} {e : DecodeError} {i : Instr}
    (h : (if p then x else .error e) = .ok i) : p ∧ x = .ok i := by
  split at h
  · exact ⟨‹p›, h⟩
  · cases h

/-- `i` is an operation of a block with `n` channels, and the word `w` and the side operands are its own; a framer
operation has no timeout (R79). -/
def Carries (n : Nat) (i : Instr) (w : OpWord) (data : Bytes) (tmo : Millis) : Prop :=
  encodeWord i = w ∧ encodeData i = data ∧ i.wellFormed n = true ∧ (isFramer i = false → encodeTimeout i = tmo)

/-- The fields an operation is decoded from are those of its word: the used ones are its operands, the others are zero. -/
theorem carries_of_decodeFields {n : Nat} {op addr cmd chan : Byte} {data : Bytes} {tmo : Millis} {i : Instr}
    (h : decodeFields n op addr cmd chan data tmo = .ok i) : Carries n i (packWord op addr cmd chan) data tmo := by
  have hop : op = BitVec.ofNat 8 op.toNat := by simp
  rw [hop] -- each row of the operation map gives the code as a number
  unfold decodeFields at h
  split at h
  case h_1 hcode =>
    obtain ⟨⟨rfl, rfl⟩, ⟨⟩⟩ := of_ite_eq_ok h
    exact hcode ▸ ⟨rfl, rfl, rfl, nofun⟩
  case h_2 hcode | h_4 hcode | h_5 hcode | h_6 hcode =>
    obtain ⟨⟨rfl, rfl, rfl⟩, ⟨⟩⟩ := of_ite_eq_ok h
    exact hcode ▸ ⟨rfl, rfl, rfl, nofun⟩
  case h_3 hcode =>
    obtain ⟨rfl, ⟨⟩⟩ := of_ite_eq_ok h
    exact hcode ▸ ⟨rfl, rfl, rfl, nofun⟩
  case h_7 hcode =>
    obtain ⟨rfl, hinner⟩ := of_ite_eq_ok h
    obtain ⟨hchan, ⟨⟩⟩ := of_ite_eq_ok hinner
    exact hcode ▸ ⟨rfl, rfl, decide_eq_true hchan, fun _ => rfl⟩
  case h_8 => cases h

theorem carries_of_decode {n : Nat} {rq : Request} {i : Instr} (h : decode n rq = some i) :
    Carries n i rq.opw rq.dataIn rq.timeoutMs :=
  packWord_fields rq.opw ▸ carries_of_decodeFields (toOption_eq_some_iff.1 h)

/-! ### The illegal words (R82, R83) -/

/-- `IllegalWord` of a word with these four fields: R82 and R83 clause by clause. -/
def IllegalFields (n : Nat) (op addr cmd chan : Byte) : Prop :=
  op.toNat ∉ [1, 2, 3, 4, 5, 6, 16] ∨ (addr ≠ 0 ∧ op.toNat ≠ 3) ∨ (cmd ≠ 0 ∧ op.toNat ∉ [1, 3, 16])
    ∨ (chan ≠ 0 ∧ op.toNat ≠ 16) ∨ (op.toNat = 16 ∧ n ≤ chan.toNat)

theorem illegalWord_iff (n : Nat) (w : OpWord) :
    IllegalWord n w ↔ IllegalFields n (opwOp w) (opwAddr w) (opwCmd w) (opwChan w) := by
  have hchan : w.toNat / 16777216 % 256 = w.toNat / 16777216 := by
    have := w.isLt
    omega
  simp only [IllegalWord, IllegalFields, ne_eq, ← BitVec.toNat_inj, toNat_opwOp, toNat_opwAddr, toNat_opwCmd,
    toNat_opwChan, hchan]
  rfl

/-- A row of the operation map rejects where its condition fails, or where what it guards rejects (R82). -/
theorem toOption_ite_eq_none_iff {p : Prop} [Decidable p] {x : Except DecodeError Instr} {e : DecodeError} :
    (if p then x else .error e).toOption = none ↔ ¬ p ∨ x.toOption = none := by
  split <;> simp_all [Except.toOption]

/-- The decoder rejects exactly the illegal fields, one row of the operation map after the other. -/
theorem toOption_decodeFields_eq_none_iff (n : Nat) (op addr cmd chan : Byte) (data : Bytes) (tmo : Millis) :
    (decodeFields n op addr cmd chan data tmo).toOption = none ↔ IllegalFields n op addr cmd chan := by
  unfold decodeFields IllegalFields
  split
  case h_1 hcode | h_2 hcode | h_3 hcode | h_4 hcode | h_5 hcode | h_6 hcode | h_7 hcode =>
    simp [toOption_ite_eq_none_iff, toOption_ok, hcode, not_and_or, -not_and]
  case h_8 => exact iff_of_true rfl (.inl (by simp_all))

theorem decode_eq_none_iff (n : Nat) (rq : Request) : decode n rq = none ↔ IllegalWord n rq.opw := by
  rw [illegalWord_iff]
  exact toOption_decodeFields_eq_none_iff ..

/-! ### An illegal word is sent (R83) -/

/-- One change after another is one change: the later record and lock table, and both lists of events. -/
theorem OnlyCurrent.trans {s t u : State} {q q' : Requester} {locks locks' : List (Nat × Nat)} {evs evs' : List Event}
    (h : OnlyCurrent s t q locks evs) (h' : OnlyCurrent t u q' locks' evs') :
    OnlyCurrent s u q' locks' (evs ++ evs') := by
  obtain ⟨-, hother, hlen, -, hhist, hcfg, hfault, hmark, hturns, hcur⟩ := h
  obtain ⟨hq, hother', hlen', hlocks, hhist', hcfg', hfault', hmark', hturns', hcur'⟩ := h'
  rw [hcur] at hq hother' hcur'
  exact ⟨hq, fun r hr => (hother' r hr).trans (hother r hr), hlen'.trans hlen, hlocks,
    by rw [hhist', hhist, List.append_assoc], hcfg'.trans hcfg, hfault'.trans hfault, hmark'.trans hmark,
    hturns'.trans hturns, hcur'⟩

theorem issueStep_of_illegal {s : State} {rq : Request} (h : IllegalWord (numChannels s.config) rq.opw) :
    issueStep rq s = .next (s.illegal rq.opw) := by
  simp [issueStep, (decode_eq_none_iff ..).2 h]

/-- Sending an illegal word moves the port past it, writes the error and records one event (R83). -/
theorem popPort_illegal_effect {s : State} {q : Requester} {a : PortAction} {ps : List PortAction}
    (hissuing : Issuing s q) (hport : q.port = a :: ps) (opw : OpWord) :
    OnlyCurrent s (s.popPort.illegal opw) { q with port := ps, result := Result.error .illegalOperation } s.locks
      [.op s.current opw (Result.error .illegalOperation)] := by
  obtain ⟨hq, hidle⟩ := hissuing
  have hpop := popPort_effect hq hport
  exact hpop.trans (completeOp_effect ⟨hpop.1, hidle⟩ opw _)

/-! ### The packages handed to the transport (R72, R141) -/

theorem txFramed_record {s : State} {e : Event} (h : s.TxFramed) (he : e.PackageFramed s.config) :
    (s.record e).TxFramed :=
  List.forall_mem_append.2 ⟨h, List.forall_mem_singleton.2 he⟩

/-- A legal `WR` phase (R23, R141) writes a package framed for its channel, to that channel's line. -/
theorem packageFramed_of_legal {cfg : Config} {c : Nat} {pkg : Bytes} {tmo : Millis} {rt : Route}
    (hlegal : (Phase.wr c pkg tmo).Legal cfg) (hr : route cfg c = some rt) (r : Nat) (w : TxOutcome) :
    (Event.tx r rt.line pkg w).PackageFramed cfg := by
  obtain ⟨rt', cmd, payload, hr', hlen, rfl⟩ := hlegal
  cases hr.symm.trans hr'
  obtain ⟨ch, hch, rfl⟩ := channel_of_route hr
  exact ⟨ch, List.mem_of_getElem? hch, rfl, cmd, payload, hlen, rfl⟩

/-- Issuing an operation hands nothing to the transport. -/
theorem txFramed_of_issueMove {s t : State} (hs : s.TxFramed) (h : IssueMove s t) : t.TxFramed := by
  cases h with
  | op opw res => exact txFramed_record (s := s.complete res) hs trivial
  | refuse | tooLong | request => exact hs

/-- Only the write step (R142) hands a package to the transport: the one its legal phase holds. -/
theorem txFramed_of_move {tn : Turn} {q : Requester} {s t : State} (hs : s.TxFramed)
    (hlegal : q.phase.Legal s.config) (h : Move tn q s t) : t.TxFramed := by
  have hwr {c pkg tmo rt} (hp : q.phase = .wr c pkg tmo) (hr : route s.config c = some rt) :
      (s.record (.tx s.current rt.line pkg tn.tx)).TxFramed :=
    txFramed_record hs (packageFramed_of_legal (hp ▸ hlegal) hr _ _)
  cases h with
  | issue _ _ _ h => exact txFramed_of_issueMove (s := s.popPort) hs h
  | acquire c cmd payload tmo rt => exact txFramed_record (s := s.hold rt.domain) hs trivial
  | written _ _ _ _ hp hr => exact hwr hp hr
  | writeFailed _ _ _ _ _ hp hr => exact txFramed_record (hwr hp hr) trivial
  | answered => exact txFramed_record (txFramed_record hs trivial) trivial
  | rest | wait | read | readUnwritten | readConfig | readNoConfig | tooLong => exact hs

/-! ### The obligations -/

/-- Settles O1: the decoder reads back the fields the encoder packed. -/
theorem decodeEncode : Obligations.DecodeEncode :=
  fun _ _ => decode_encode

/-- Settles O43: the package of a `Tx` event is that of the writer's phase, legal by the invariant. -/
theorem stepKeepsTxFramed : Obligations.StepKeepsTxFramed := by
  intro s t hinv hs h
  obtain ⟨-, ⟨-, rfl⟩ | ⟨tn, rest, -, ⟨-, rfl⟩ | ⟨q, hq, hmove⟩⟩⟩ := step_cases h
  · exact hs
  · exact hs
  · exact txFramed_of_move (s := s.beginTurn tn rest) hs (hinv.phases q (List.mem_of_getElem? hq)) hmove

/-- Settles O2: row by row of the operation map, the fields that are no operand are zero. -/
theorem decodedWordIsItsEncoding : Obligations.DecodedWordIsItsEncoding :=
  fun _ _ _ => carries_of_decode

/-- Settles O3: the fields of the word are the digits of its number, and each row rejects what R82 and R83 name. -/
theorem rejectedWordsAreTheIllegalOnes : Obligations.RejectedWordsAreTheIllegalOnes :=
  decode_eq_none_iff

/-- Settles O4: the decoder rejects the word, so the turn ends with the error and its event. -/
theorem illegalWordCompletes : Obligations.IllegalWordCompletes := by
  intro s tn rest q rq ps hturn hidle hport hillegal
  refine ⟨(s.beginTurn tn rest).popPort.illegal rq.opw, ?_,
    popPort_illegal_effect (s := s.beginTurn tn rest) ⟨hturn.2.2, hidle⟩ hport rq.opw⟩
  rw [step_of_idle hturn hidle, portStep_of_issue hport]
  exact issueStep_of_illegal hillegal

/-- Settles O5: eight words, each decoded. -/
theorem writtenOutWordsDecode : Obligations.WrittenOutWordsDecode := by
  unfold Obligations.WrittenOutWordsDecode
  decide

end Sys2Proof.Machine
end

section
/-! PROOFS of the family 40_framer: the checksum and the length field as arithmetic, the framer operations' results and
frame, the round trip of a package, and what the checksum detects (O9 to O19). -/

namespace Sys2Proof.Machine

/-! ### The sum of a stream and the checksum (R101, R102, R111) -/

theorem byteSum_cons (b : Byte) (m : Bytes) : byteSum (b :: m) = b.toNat + byteSum m := rfl

theorem byteSum_append (m m' : Bytes) : byteSum (m ++ m') = byteSum m + byteSum m' := by
  simp [byteSum]

/-- The sum does not see the order of the bytes. -/
theorem byteSum_perm {m m' : Bytes} (h : m.Perm m') : byteSum m = byteSum m' :=
  (h.map BitVec.toNat).sum_eq

/-- Replacing one byte changes the sum by the difference of the two bytes. -/
theorem byteSum_set (m : Bytes) (j : Nat) (hj : j < m.length) (x : Byte) :
    byteSum (m.set j x) + m[j].toNat = byteSum m + x.toNat := by
  induction m generalizing j with
  | nil => cases hj
  | cons b m ih =>
    cases j with
    | zero => simp only [List.set_cons_zero, List.getElem_cons_zero, byteSum_cons]; omega
    | succ j =>
      have hrest := ih j (Nat.lt_of_succ_lt_succ hj)
      simp only [List.set_cons_succ, List.getElem_cons_succ, byteSum_cons]
      omega

/-- Summing with 8-bit wrap-around gives the reduced sum (R111). -/
theorem sum8_eq_sum (m : Bytes) : sum8 m = m.sum := by
  induction m with
  | nil => rfl
  | cons b m ih =>
    calc sum8 (b :: m) = BitVec.ofNat 8 (b.toNat + byteSum m) := rfl
      _ = b + sum8 m := by rw [BitVec.ofNat_add, BitVec.ofNat_toNat, BitVec.setWidth_eq]; rfl
      _ = (b :: m).sum := by rw [ih, List.sum_cons]

theorem neg8_eq_neg (x : Byte) : neg8 x = -x :=
  BitVec.eq_of_toNat_eq ((toNat_neg8 x).trans (BitVec.toNat_neg x).symm)

/-- The checksum check in terms of the sum of all bytes (R102): the last byte brings it to 0 mod 256. -/
theorem verify_eq_true_iff (p : Bytes) : verify p = true ↔ 1 ≤ p.length ∧ byteSum p % 256 = 0 := by
  obtain rfl | ⟨m, c, rfl⟩ := p.eq_nil_or_concat'
  · simp [verify_nil]
  · rw [verify_concat, beq_iff_eq, chk_eq_iff, byteSum_append]
    simp [byteSum]

theorem verify_eq_false_iff {p : Bytes} (h : 1 ≤ p.length) : verify p = false ↔ byteSum p % 256 ≠ 0 := by
  rw [← Bool.not_eq_true, verify_eq_true_iff, and_iff_right h]

/-- The checksum check in terms of the last byte (R102). -/
theorem verify_eq_true_iff_last (p : Bytes) :
    verify p = true ↔ ∃ h : 1 ≤ p.length, chk (p.take (p.length - 1)) = p[p.length - 1] := by
  obtain rfl | ⟨m, c, rfl⟩ := p.eq_nil_or_concat'
  · simp [verify_nil]
  · simp [verify_concat]

/-- The check sees a stream's sum and whether it is empty, and nothing else (R114). -/
theorem verify_congr {p p' : Bytes} (hlen : p.length = 0 ↔ p'.length = 0)
    (hsum : byteSum p % 256 = byteSum p' % 256) : verify p = verify p' := by
  rw [Bool.eq_iff_iff, verify_eq_true_iff, verify_eq_true_iff, hsum]
  omega

theorem verify_pkgBytes (addr cmd : Byte) (payload : Bytes) : verify (pkgBytes addr cmd payload) = true := by
  simp [pkgBytes, verify_concat]

/-- Replacing one byte of a stream by a different value makes a check that passed fail (R113). -/
theorem verify_set_eq_false {p : Bytes} (hp : verify p = true) {j : Nat} (hj : j < p.length) {x : Byte}
    (hx : x ≠ p[j]) : verify (p.set j x) = false := by
  obtain ⟨hlen, hsum⟩ := (verify_eq_true_iff p).1 hp
  rw [verify_eq_false_iff (by rwa [List.length_set])]
  have hset := byteSum_set p j hj x
  have hne : x.toNat ≠ p[j].toNat := fun h => hx (BitVec.eq_of_toNat_eq h)
  have := x.isLt
  have := p[j].isLt
  omega

/-! ### The length field (R103, R111) -/

/-- The two bytes of the length field are exact up to 65535. -/
theorem toNat_lengthBytes {n : Nat} (h : n ≤ 65535) :
    (BitVec.ofNat 8 (n / 256)).toNat * 256 + (BitVec.ofNat 8 n).toNat = n :=
  (toNat_unbe16 ..).symm.trans (unbe16_be16 (Nat.lt_succ_of_le h))

theorem toNat_size {n : Nat} (h : n ≤ 65535) : (BitVec.ofNat 16 n).toNat = n :=
  Nat.mod_eq_of_lt (Nat.lt_succ_of_le h)

theorem unbe16_lengthBytes {n : Nat} (h : n ≤ 65535) :
    unbe16 (BitVec.ofNat 8 (n / 256)) (BitVec.ofNat 8 n) = BitVec.ofNat 16 n :=
  BitVec.eq_of_toNat_eq ((unbe16_be16 (Nat.lt_succ_of_le h)).trans (toNat_size h).symm)

/-! ### The results of building and parsing, case by case (R104 to R108) -/

theorem msgBuildResult_of_tooLong {payload : Bytes} (h : 65535 < payload.length) (cmd : Byte) :
    msgBuildResult cmd payload = Result.error .payloadTooLong :=
  if_pos ((payloadTooLong_iff payload).2 h)

theorem msgBuildResult_of_fits {payload : Bytes} (h : payload.length ≤ 65535) (cmd : Byte) :
    msgBuildResult cmd payload =
      { Result.unwritten with
        status := some .ok, bytes := some (msgBytes cmd payload), size := some (BitVec.ofNat 16 payload.length) } :=
  if_neg (Bool.not_eq_true _ ▸ (payloadTooLong_eq_false_iff payload).2 h)

theorem pkgBuildResult_of_tooLong {payload : Bytes} (h : 65535 < payload.length) (addr cmd : Byte) :
    pkgBuildResult addr cmd payload = Result.error .payloadTooLong :=
  if_pos ((payloadTooLong_iff payload).2 h)

theorem pkgBuildResult_of_fits {payload : Bytes} (h : payload.length ≤ 65535) (addr cmd : Byte) :
    pkgBuildResult addr cmd payload =
      { Result.unwritten with
        status := some .ok
        bytes := some (pkgBytes addr cmd payload)
        checksum := some (chk (pkgBody addr cmd payload)) } :=
  if_neg (Bool.not_eq_true _ ▸ (payloadTooLong_eq_false_iff payload).2 h)

theorem msgParseResult_of_short {m : Bytes} (h : m.length < 3) (strict : Bool) :
    msgParseResult strict m = Result.error .messageTooShort := by
  rw [msgParseResult, parseMsg_short h]

/-- What `MSG_PARSE` answers to a stream taken apart by its fields. -/
theorem msgParseResult_form (strict : Bool) (cmd hi lo : Byte) (payload : Bytes) :
    msgParseResult strict (cmd :: hi :: lo :: payload) =
      if strict = true ∧ hi.toNat * 256 + lo.toNat ≠ payload.length then Result.error .lengthMismatch
      else
        { Result.unwritten with
          status := some .ok, cmd := some cmd, size := some (unbe16 hi lo), payload := some payload } := by
  rw [msgParseResult, parseMsg_cons, ← toNat_unbe16]
  cases strict
  · rfl
  · by_cases h : (unbe16 hi lo).toNat = payload.length <;> simp [h]

/-- The length of a package is checked first; then a wrong checksum hides everything else. -/
theorem pkgParseResult_of_verify_false {p : Bytes} (hlen : 5 ≤ p.length) (hv : verify p = false) (strict : Bool) :
    pkgParseResult strict p = Result.error .checksumError := by
  obtain ⟨addr, cmd, hi, lo, payload, c, rfl⟩ := exists_package_form hlen
  rw [pkgParseResult_form, if_pos hv]

/-- The parser gives back the parts of a built package, for either value of `STRICT_LENGTH` (R112). -/
theorem pkgParseResult_pkgBytes (strict : Bool) (addr cmd : Byte) {payload : Bytes} (h : payload.length ≤ 65535) :
    pkgParseResult strict (pkgBytes addr cmd payload) =
      { Result.unwritten with
        status := some .ok
        addr := some addr
        cmd := some cmd
        size := some (BitVec.ofNat 16 payload.length)
        payload := some payload
        checksum := some (chk (pkgBody addr cmd payload)) } := by
  have hv := verify_pkgBytes addr cmd payload
  rw [pkgBytes_eq] at hv ⊢
  have hmatch : ¬ (strict = true ∧ (BitVec.ofNat 16 payload.length).toNat ≠ payload.length) :=
    fun hne => hne.2 (toNat_size h)
  rw [pkgParseResult_form, unbe16_lengthBytes h, if_neg (by rw [hv]; decide), if_neg hmatch]

/-! ### Issuing a framer operation (R100) -/

/-- A framer operation of an idle requester answers, with the whole effect of R100. -/
theorem exists_framerEffect {s : State} {q : Requester} (hissuing : Issuing s q) {i : Instr} {res : Result}
    (h : exec i s = framerOp i res s) : ∃ t, exec i s = .next t ∧ FramerEffect s t q (encodeWord i) res :=
  ⟨_, h.trans (framerOp_of_issuing hissuing i res), completeOp_effect hissuing _ res⟩

/-- A framer operation of an idle requester leaves its result in that requester's register. -/
theorem exists_result {s : State} {q : Requester} (hissuing : Issuing s q) {i : Instr} {res : Result}
    (h : exec i s = framerOp i res s) :
    ∃ t, exec i s = .next t ∧ (t.requesters[s.current]?).map Requester.result = some res := by
  obtain ⟨t, hnext, heffect⟩ := exists_framerEffect hissuing h
  exact ⟨t, hnext, result_of_framerEffect heffect⟩

theorem exec_pkgBuild_of_accepted {addr : Byte} (h : addr.toNat ≤ 31) (cmd : Byte) (payload : Bytes) (s : State) :
    exec (.pkgBuild addr cmd payload) s = framerOp (.pkgBuild addr cmd payload) (pkgBuildResult addr cmd payload) s :=
  execPkgBuild_of_accepted (Nat.not_lt.2 h) cmd payload

theorem exec_pkgBuild_of_refused {s : State} {q : Requester} (hissuing : Issuing s q) {addr : Byte}
    (h : 31 < addr.toNat) (cmd : Byte) (payload : Bytes) :
    exec (.pkgBuild addr cmd payload) s = .next (s.refuse .addressOutOfRange) :=
  (execPkgBuild_of_refused h cmd payload).trans (issued_of_issuing hissuing _)

end Sys2Proof.Machine

/-! ### The obligations, under a namespace of their own: `Sys2Proof.Machine` has functions of the same names -/

namespace Sys2Proof.Framer

open Machine

/-- Settles O9: the length field and `size` are exact because the payload fits. -/
theorem msgBuildResult : Obligations.MsgBuildResult := by
  intro s q cmd payload hissuing
  obtain ⟨t, hnext, heffect⟩ := exists_framerEffect hissuing (i := .msgBuild cmd payload) rfl
  refine ⟨t, _, hnext, heffect, ?_⟩
  split_ifs with hlong
  · exact msgBuildResult_of_tooLong hlong cmd
  · have hfits := Nat.le_of_not_lt hlong
    exact ⟨_, _, _, toNat_lengthBytes hfits, toNat_size hfits, msgBuildResult_of_fits hfits cmd⟩

/-- Settles O10: a stream of three bytes or more is a command, a length field and the rest. -/
theorem msgParseResult : Obligations.MsgParseResult := by
  intro s q m hissuing
  obtain ⟨t, hnext, heffect⟩ := exists_framerEffect hissuing (i := .msgParse m) rfl
  refine ⟨t, _, hnext, heffect, fun hshort => msgParseResult_of_short hshort _, ?_⟩
  rintro cmd hi lo payload rfl
  rw [msgParseResult_form]
  split_ifs
  · rfl
  · exact ⟨_, toNat_unbe16 hi lo, rfl⟩

/-- Settles O11: the address is looked at first; the checksum is the byte that brings the sum to 0 mod 256. -/
theorem pkgBuildResult : Obligations.PkgBuildResult := by
  intro s q addr cmd payload hissuing
  by_cases haddr : 31 < addr.toNat
  · refine ⟨_, exec_pkgBuild_of_refused hissuing haddr cmd payload, ?_⟩
    rw [if_pos haddr]
    exact ⟨rfl, step_of_marked rfl⟩
  · obtain ⟨t, hnext, heffect⟩ :=
      exists_framerEffect hissuing (exec_pkgBuild_of_accepted (Nat.le_of_not_lt haddr) cmd payload s)
    refine ⟨t, hnext, ?_⟩
    rw [if_neg haddr]
    refine ⟨_, heffect, ?_⟩
    split_ifs with hlong
    · exact pkgBuildResult_of_tooLong hlong addr cmd
    · have hfits := Nat.le_of_not_lt hlong
      refine ⟨_, _, chk (pkgBody addr cmd payload), toNat_lengthBytes hfits, (chk_eq_iff _ _).1 rfl, ?_⟩
      rw [pkgBuildResult_of_fits hfits, pkgBytes_eq]

/-- Settles O12: the check of the last byte is the check of the sum, and the length field is read exactly. -/
theorem pkgParseResult : Obligations.PkgParseResult := by
  intro s q p hissuing
  obtain ⟨t, hnext, heffect⟩ := exists_framerEffect hissuing (i := .pkgParse p) rfl
  refine ⟨t, _, hnext, heffect, pkgParseResult_short _, ?_⟩
  rintro addr cmd hi lo c payload rfl
  have hsum := verify_eq_false_iff (p := addr :: cmd :: hi :: lo :: (payload ++ [c])) (Nat.succ_pos _)
  simp only [pkgParseResult_form, toNat_unbe16, hsum]
  split_ifs
  · rfl
  · rfl
  · exact ⟨_, toNat_unbe16 hi lo, rfl⟩

/-- Settles O14: the check is that of the sum. -/
theorem chkVerifyResult : Obligations.ChkVerifyResult := by
  intro s q p hissuing
  obtain ⟨t, hnext, heffect⟩ := exists_framerEffect hissuing (i := .chkVerify p) rfl
  exact ⟨t, verify p, hnext, verify_eq_true_iff p, heffect⟩

/-- Settles O15: a stream is empty, or its last byte is added to the sum of the others. -/
theorem verifyIsSumZero : Obligations.VerifyIsSumZero :=
  ⟨verify_eq_true_iff_last, fun p hp => (verify_eq_true_iff p).trans (and_iff_right hp), verify_nil⟩

/-- Settles O16: reducing mod 256 once or after every byte is the same. -/
theorem framerArithmetic : Obligations.FramerArithmetic :=
  ⟨fun m => (sum8_eq_sum m).trans List.sum_eq_foldl, fun x => (neg8_eq_neg x).trans (BitVec.neg_eq_not_add x),
    fun _ hn => ⟨_, _, rfl, toNat_lengthBytes hn⟩⟩

/-- Settles O17: the parse of the built bytes, whose checksum is right and whose length field is exact. -/
theorem packageRoundTrip : Obligations.PackageRoundTrip := by
  intro s q addr cmd payload hissuing haddr hlen
  obtain ⟨t, hnext, hres⟩ := exists_result hissuing (exec_pkgBuild_of_accepted haddr cmd payload s)
  rw [pkgBuildResult_of_fits hlen] at hres
  refine ⟨t, _, _, hnext, hres, fun s' q' hissuing' => ?_⟩
  obtain ⟨t', hnext', hres'⟩ := exists_result hissuing' (i := .pkgParse (pkgBytes addr cmd payload)) rfl
  rw [pkgParseResult_pkgBytes _ addr cmd hlen] at hres'
  exact ⟨t', _, hnext', toNat_size hlen, hres'⟩

/-- Settles O18: one byte changes the sum by less than 256, so it is no longer 0 mod 256. -/
theorem singleByteChangeIsDetected : Obligations.SingleByteChangeIsDetected := by
  intro s q addr cmd payload j x hissuing _ hj hx
  have hv := verify_set_eq_false (verify_pkgBytes addr cmd payload) hj hx
  have hlen : 5 ≤ ((pkgBytes addr cmd payload).set j x).length := by
    rw [List.length_set, length_pkgBytes]
    omega
  constructor
  · obtain ⟨t, hnext, hres⟩ := exists_result hissuing (i := .chkVerify ((pkgBytes addr cmd payload).set j x)) rfl
    rw [Machine.chkVerifyResult, hv] at hres
    exact ⟨t, hnext, hres⟩
  · obtain ⟨t, hnext, hres⟩ := exists_result hissuing (i := .pkgParse ((pkgBytes addr cmd payload).set j x)) rfl
    rw [pkgParseResult_of_verify_false hlen hv] at hres
    exact ⟨t, hnext, hres⟩

/-- Settles O19: each of these changes keeps the sum mod 256, and leaves the stream non-empty. -/
theorem checksumMissesBalancedChanges : Obligations.ChecksumMissesBalancedChanges := by
  refine ⟨fun p p' hlen => verify_congr (by rw [hlen]), fun p p' hperm => ?_, fun a b hlen => ?_⟩
  · exact verify_congr (by rw [hperm.length_eq]) (by rw [byteSum_perm hperm])
  · refine verify_congr ⟨by simp, by omega⟩ ?_
    simp [byteSum_append, byteSum_cons]

/-- Settles O13: the checksum as a number. -/
theorem chkCalcResult : Obligations.ChkCalcResult := by
  intro s q m hissuing
  obtain ⟨t, hnext, heffect⟩ := exists_framerEffect hissuing (i := .chkCalc m) rfl
  exact ⟨t, chk m, hnext, toNat_chk m, heffect⟩

end Sys2Proof.Framer
end

section
/-! PROOFS of the family 41_channel: the issue of a `CH_REQUEST`, its three phases with their whole effect, the response
as a result, and the exchange from acquire to release (O25 to O30, O32, O44). -/

namespace Sys2Proof.Machine

/-! ### What a step of a request changes, one shared operation after another (R140 to R143) -/

theorem record_effect {s : State} {q : Requester} (hq : s.requesters[s.current]? = some q) (e : Event) :
    OnlyCurrent s (s.record e) q s.locks [e] :=
  ⟨hq, fun _ _ => rfl, rfl, rfl, rfl, rfl, rfl, rfl, rfl, rfl⟩

theorem hold_effect {s : State} {q : Requester} (hq : s.requesters[s.current]? = some q) (k : Nat) :
    OnlyCurrent s (s.hold k) q (lockInsert k s.current s.locks) [] :=
  ⟨hq, fun _ _ => rfl, rfl, rfl, (List.append_nil _).symm, rfl, rfl, rfl, rfl, rfl⟩

theorem release_effect {s : State} {q : Requester} (hq : s.requesters[s.current]? = some q) (k : Nat) :
    OnlyCurrent s (s.release k) q (lockErase k s.locks) [.release s.current k] :=
  ⟨hq, fun _ _ => rfl, rfl, rfl, rfl, rfl, rfl, rfl, rfl, rfl⟩

/-- An operation of an idle requester that ends at once without an event writes its result alone. -/
theorem complete_effect {s : State} {q : Requester} (h : Issuing s q) (res : Result) :
    OnlyCurrent s (s.complete res) { q with result := res } s.locks [] := by
  obtain ⟨hq, hidle⟩ := h
  have hrecord : { q with result := res } = { q with phase := .idle, result := res } := by rw [← hidle]
  rw [hrecord]
  exact updateCurrent_effect hq _

/-- R141: the lock, the event and the phase. -/
theorem acquire_effect {s : State} {q : Requester} (hq : s.requesters[s.current]? = some q) (k : Nat) (p : Phase) :
    OnlyCurrent s (((s.hold k).record (.acquire s.current k)).setPhase p) { q with phase := p }
      (lockInsert k s.current s.locks) [.acquire s.current k] :=
  ((hold_effect hq k).trans (record_effect (s := s.hold k) hq _)).trans
    (updateCurrent_effect (s := (s.hold k).record _) hq _)

/-- R142 with a write that succeeded: the event and the phase. -/
theorem record_setPhase_effect {s : State} {q : Requester} (hq : s.requesters[s.current]? = some q) (e : Event)
    (p : Phase) : OnlyCurrent s ((s.record e).setPhase p) { q with phase := p } s.locks [e] :=
  (record_effect hq e).trans (updateCurrent_effect (s := s.record e) hq _)

/-- R142, R143: the request ends, with its last call's event `e`, its release and its result. -/
theorem release_complete_effect {s : State} {q : Requester} (hq : s.requesters[s.current]? = some q) (e : Event)
    (k : Nat) (res : Result) :
    OnlyCurrent s (((s.record e).release k).complete res) { q with phase := .idle, result := res }
      (lockErase k s.locks) [e, .release s.current k] :=
  ((record_effect hq e).trans (release_effect (s := s.record e) hq k)).trans
    (updateCurrent_effect (s := (s.record e).release k) hq _)

/-! ### A request's turn, by its phase (R140 to R143) -/

theorem exec_chRequest_of_noChannel {s : State} {chan : Byte} (h : numChannels s.config ≤ chan.toNat) (cmd : Byte)
    (payload : Bytes) (tmo : Millis) :
    exec (.chRequest chan cmd payload tmo) s
      = issued s (s.illegal (encodeWord (.chRequest chan cmd payload tmo))) :=
  if_pos h

theorem exec_chRequest_of_tooLong {s : State} {chan : Byte} {payload : Bytes} (hc : ¬ numChannels s.config ≤ chan.toNat)
    (hp : 65535 < payload.length) (cmd : Byte) (tmo : Millis) :
    exec (.chRequest chan cmd payload tmo) s = issued s (s.raise .payloadTooLong) :=
  (if_neg hc).trans (if_pos ((payloadTooLong_iff payload).2 hp))

theorem exec_chRequest_of_fits {s : State} {chan : Byte} {payload : Bytes} (hc : ¬ numChannels s.config ≤ chan.toNat)
    (hp : ¬ 65535 < payload.length) (cmd : Byte) (tmo : Millis) :
    exec (.chRequest chan cmd payload tmo) s = issued s (s.setPhase (.acq chan.toNat cmd payload tmo)) :=
  (if_neg hc).trans (if_neg (mt (payloadTooLong_iff payload).1 hp))

section
variable {s : State} {tn : Turn} {rest : List Turn} {q : Requester} {c : Nat} {tmo : Millis} {ch : Channel}

theorem step_of_acq {cmd : Byte} {payload : Bytes} (h : TurnOf s tn rest q) (hp : q.phase = .acq c cmd payload tmo) :
    step s = acquireStep c cmd payload tmo (s.beginTurn tn rest) := by
  simp [step_of_turnOf h, requesterStep, hp]

theorem step_of_wr {pkg : Bytes} (h : TurnOf s tn rest q) (hp : q.phase = .wr c pkg tmo) :
    step s = writeStep c pkg tmo tn.tx (s.beginTurn tn rest) := by
  simp [step_of_turnOf h, requesterStep, hp]

/-- R141: the lock was free. -/
theorem exists_step_of_free {cmd : Byte} {payload : Bytes} (h : TurnOf s tn rest q)
    (hp : q.phase = .acq c cmd payload tmo) (hch : s.config.channels[c]? = some ch)
    (hl : s.lock (lockOf s.config ch.line) = .free) :
    ∃ t, step s = .next t
      ∧ OnlyCurrent (s.beginTurn tn rest) t { q with phase := .wr c (pkgBytes ch.address cmd payload) tmo } t.locks
          [.acquire tn.requester (lockOf s.config ch.line)]
      ∧ ∀ k, t.lock k = if k = lockOf s.config ch.line then .held tn.requester else s.lock k := by
  have ⟨_, _, hq⟩ := h
  have hr := route_of_channel hch
  exact ⟨_, (step_of_acq h hp).trans (acquireStep_of_free (s := s.beginTurn tn rest) hr hl ..),
    acquire_effect (s := s.beginTurn tn rest) hq _ _, fun k => by simp⟩

/-- R142: the transport took the package. -/
theorem exists_step_of_written {pkg : Bytes} (h : TurnOf s tn rest q) (hp : q.phase = .wr c pkg tmo)
    (hch : s.config.channels[c]? = some ch) (hw : tn.tx = .ok) :
    ∃ t, step s = .next t
      ∧ OnlyCurrent (s.beginTurn tn rest) t { q with phase := .rd c tmo } s.locks
          [.tx tn.requester ch.line pkg .ok] := by
  have ⟨_, _, hq⟩ := h
  have hr := route_of_channel hch
  exact ⟨_, (step_of_wr h hp).trans (hw ▸ writeStep_of_ok (s := s.beginTurn tn rest) hr pkg tmo),
    record_setPhase_effect (s := s.beginTurn tn rest) hq _ _⟩

/-- R142: the transport failed, with status `st`. -/
theorem exists_step_of_writeFailed {pkg : Bytes} {w : TxOutcome} {st : Status} (h : TurnOf s tn rest q)
    (hp : q.phase = .wr c pkg tmo) (hch : s.config.channels[c]? = some ch) (hw : tn.tx = w)
    (hst : txFailure w = some st) :
    ∃ t, step s = .next t
      ∧ OnlyCurrent (s.beginTurn tn rest) t { q with phase := .idle, result := Result.error st } t.locks
          [.tx tn.requester ch.line pkg w, .release tn.requester (lockOf s.config ch.line)]
      ∧ ∀ k, t.lock k = if k = lockOf s.config ch.line then .free else s.lock k := by
  have ⟨_, _, hq⟩ := h
  have hr := route_of_channel hch
  exact ⟨_, (step_of_wr h hp).trans (hw ▸ writeStep_of_failure (s := s.beginTurn tn rest) hr hst pkg tmo),
    release_complete_effect (s := s.beginTurn tn rest) hq _ _ _, fun k => by simp⟩

end

/-! ### One turn after another of the same requester -/

/-! The projections of `OnlyCurrent` that a chain of turns uses, by name. -/

theorem OnlyCurrent.config_eq {s t : State} {q : Requester} {locks : List (Nat × Nat)} {evs : List Event}
    (h : OnlyCurrent s t q locks evs) : t.config = s.config := by
  obtain ⟨-, -, -, -, -, hcfg, -⟩ := h
  exact hcfg

theorem OnlyCurrent.hist_eq {s t : State} {q : Requester} {locks : List (Nat × Nat)} {evs : List Event}
    (h : OnlyCurrent s t q locks evs) : t.hist = s.hist ++ evs := by
  obtain ⟨-, -, -, -, hhist, -⟩ := h
  exact hhist

section
variable {s t : State} {tn tn' : Turn} {rest : List Turn} {q : Requester} {locks : List (Nat × Nat)}
  {evs : List Event}

theorem OnlyCurrent.record_eq {r : Nat} (h : OnlyCurrent (s.beginTurn tn rest) t q locks evs)
    (hr : tn.requester = r) : t.requesters[r]? = some q :=
  hr ▸ h.1

/-- After a turn that sets no mark, the next turn of the same requester finds the record that the first one left. -/
theorem OnlyCurrent.turnOf (h : OnlyCurrent (s.beginTurn tn (tn' :: rest)) t q locks evs) (hm : s.refusalMark = none)
    (hr : tn.requester = tn'.requester) : TurnOf t tn' rest q := by
  have hq := h.record_eq hr
  obtain ⟨-, -, -, -, -, -, -, hmark, hturns, -⟩ := h
  exact ⟨hmark.trans hm, hturns, hq⟩

/-- What a turn changed is what a later turn of the same requester finds changed when it begins. -/
theorem OnlyCurrent.nextTurn (h : OnlyCurrent (s.beginTurn tn rest) t q locks evs)
    (hr : tn.requester = tn'.requester) (rest' : List Turn) :
    OnlyCurrent (s.beginTurn tn' rest') (t.beginTurn tn' rest') q locks evs := by
  obtain ⟨hq, hother, hlen, hlocks, hhist, hcfg, hfault, hmark, -, -⟩ := h
  rw [State.beginTurn_current, hr] at hq hother
  exact ⟨hq, hother, hlen, hlocks, hhist, hcfg, hfault, hmark, rfl, rfl⟩

end

/-! ### The response as a result (R144) -/

/-- A response that is not empty is parsed as a package, and gives what the parse gives: its status and, on success,
the Message's fields. -/
theorem rxResult_of_parse {strict : Bool} {m : Bytes} {y : Result} (hne : m ≠ [])
    (hy : pkgParseResult strict m = y) :
    rxResult strict (.bytes m) =
      if y.status = some .ok then
        { Result.unwritten with status := some .ok, cmd := y.cmd, size := y.size, payload := y.payload }
      else { Result.unwritten with status := y.status } := by
  subst hy
  exact if_neg (mt List.length_eq_zero_iff.1 hne)

theorem rxResult_of_short (strict : Bool) {m : Bytes} (hpos : 1 ≤ m.length) (hshort : m.length < 5) :
    rxResult strict (.bytes m) = Result.error .packageTooShort :=
  rxResult_of_parse (List.ne_nil_of_length_pos hpos) (pkgParseResult_short strict hshort)

/-- A response in the form of a package gives the status of its parse and, on success, the Message's fields. -/
theorem rxResult_form (strict : Bool) (addr cmd hi lo c : Byte) (payload : Bytes) :
    rxResult strict (.bytes (addr :: cmd :: hi :: lo :: (payload ++ [c]))) =
      if verify (addr :: cmd :: hi :: lo :: (payload ++ [c])) = false then Result.error .checksumError
      else if strict = true ∧ (unbe16 hi lo).toNat ≠ payload.length then Result.error .lengthMismatch
      else
        { Result.unwritten with
          status := some .ok, cmd := some cmd, size := some (unbe16 hi lo), payload := some payload } := by
  have hparse := pkgParseResult_form strict addr cmd hi lo c payload
  split_ifs at hparse ⊢ <;> exact rxResult_of_parse (List.cons_ne_nil _ _) hparse

theorem exists_status_rxResult (strict : Bool) (a : RxAnswer) : ∃ st, (rxResult strict a).status = some st := by
  cases a with
  | timeout | ioError => exact ⟨_, rfl⟩
  | bytes m =>
    simp only [rxResult]
    split_ifs
    · exact ⟨_, rfl⟩
    · exact ⟨_, rfl⟩
    · exact exists_status_pkgParseResult strict m

/-! ### The end of a request (R145) -/

/-- A request that ends with the status `st` leaves its lock free and that status in the current requester's register. -/
theorem lock_and_status_of_release_complete {s : State} {q q' : Requester} {e : Event} {k : Nat} {res : Result}
    {st : Status} (hq : s.requesters[s.current]? = some q)
    (hq' : (((s.record e).release k).complete res).requesters[s.current]? = some q') (hst : res.status = some st) :
    (((s.record e).release k).complete res).lock k = .free ∧ ∃ st, q'.result.status = some st := by
  cases hq'.symm.trans (release_complete_effect hq e k res).1
  exact ⟨by simp, st, hst⟩

/-- The turn that makes a holder idle is the one that frees its lock and writes its status: no other turn of a holder
ends its request. -/
theorem lock_and_status_of_move {tn : Turn} {q q' : Requester} {s t : State} {k : Nat} (h : Move tn q s t)
    (hq : s.requesters[s.current]? = some q) (hheld : q.phase.heldDomain? s.config = some k)
    (hq' : t.requesters[s.current]? = some q') (hidle : q'.phase = .idle) :
    t.lock k = .free ∧ ∃ st, q'.result.status = some st := by
  have hdomain {c : Nat} {rt : Route} (hc : q.phase.holding? = some c) (hr : route s.config c = some rt) :
      rt.domain = k := Option.some.inj ((heldDomain?_of_route hc hr).symm.trans hheld)
  cases h with
  | writeFailed _ _ _ rt st hp hr =>
    cases hdomain (by rw [hp]; rfl) hr
    exact lock_and_status_of_release_complete hq hq' rfl
  | answered _ _ rt hp hr =>
    cases hdomain (by rw [hp]; rfl) hr
    obtain ⟨st, hst⟩ := exists_status_rxResult s.config.strictLength tn.rx
    exact lock_and_status_of_release_complete hq hq' hst
  | written =>
    cases hq'.symm.trans (record_setPhase_effect hq _ _).1
    cases hidle
  | tooLong _ _ hp =>
    cases hq'.symm.trans hq
    cases hp.symm.trans hidle
  | rest hp | wait _ _ _ _ _ hp | issue hp | read hp | readUnwritten hp | readConfig hp | readNoConfig hp
  | acquire _ _ _ _ _ hp =>
    rw [hp] at hheld
    cases hheld

/-! ### The obligations -/

/-- Settles O25: the channel is checked before the payload, and each answer is one shared operation. -/
theorem chRequestIssue : Obligations.ChRequestIssue := by
  intro s q chan cmd payload tmo hissuing
  split_ifs with hc hp
  · exact ⟨_, (exec_chRequest_of_noChannel hc ..).trans (issued_of_issuing hissuing _), completeOp_effect hissuing _ _⟩
  · exact ⟨_, (exec_chRequest_of_tooLong hc hp ..).trans (issued_of_issuing hissuing _), complete_effect hissuing _⟩
  · exact ⟨_, (exec_chRequest_of_fits hc hp ..).trans (issued_of_issuing hissuing _),
      updateCurrent_effect hissuing.1 _⟩

/-- Settles O26: the channel has a route, and the step is guarded by the lock of the route's domain. -/
theorem acquireStepTakesTheFreeLock : Obligations.AcquireStepTakesTheFreeLock := by
  intro s tn rest q c cmd payload tmo ch hturn hp hch
  split_ifs with hl
  · exact exists_step_of_free hturn hp hch hl
  · have hr := route_of_channel hch
    exact (step_of_acq hturn hp).trans (acquireStep_of_held (s := s.beginTurn tn rest) hr hl ..)

/-- Settles O27: the turn's requester waits for the free lock, so its turn is R141's step, which changes no other
record. -/
theorem anyWaiterMayBeGranted : Obligations.AnyWaiterMayBeGranted := by
  intro s rs k hm hfree hwait tn rest hmem
  obtain ⟨q, c, cmd, payload, tmo, ch, hq, hp, hch, rfl⟩ := hwait tn.requester hmem
  obtain ⟨t, ht, ⟨-, hother, -⟩, hlock⟩ :=
    exists_step_of_free (s := { s with turns := tn :: rest }) ⟨hm, rfl, hq⟩ hp hch hfree
  exact ⟨t, ht, (hlock _).trans (if_pos rfl), fun r _ => hother r⟩

/-- Settles O28: one case per answer of the transport, both failures being one lemma. -/
theorem writeStepFollowsTheOutcome : Obligations.WriteStepFollowsTheOutcome := by
  intro s tn rest q c pkg tmo ch hturn hp hch
  cases hw : tn.tx with
  | ok => exact exists_step_of_written hturn hp hch hw
  | timeout | ioError => exact exists_step_of_writeFailed hturn hp hch hw rfl

/-- Settles O29: the answer fits, so it is parsed and the lock released in this one step. -/
theorem readStepParsesAndReleases : Obligations.ReadStepParsesAndReleases := by
  intro s tn rest q c tmo ch hturn hp hch hfits
  have ⟨_, _, hq⟩ := hturn
  have hr := route_of_channel hch
  exact ⟨_, (step_of_rd hturn hp).trans (readStep_of_fits (s := s.beginTurn tn rest) hr hfits),
    release_complete_effect (s := s.beginTurn tn rest) hq _ _ _, fun k => by simp⟩

/-- Settles O30: the check of the last byte is the check of the sum, and the length field is read exactly. -/
theorem responseMapping : Obligations.ResponseMapping := by
  intro strict
  refine ⟨rfl, rfl, rfl, fun m => rxResult_of_short strict, fun addr cmd hi lo c payload => ?_⟩
  have hsum := verify_eq_false_iff (p := addr :: cmd :: hi :: lo :: (payload ++ [c])) (Nat.succ_pos _)
  simp only [rxResult_form, toNat_unbe16, hsum]
  split_ifs
  · rfl
  · rfl
  · exact ⟨_, toNat_unbe16 hi lo, rfl⟩

/-- Settles O32: the first turn takes the lock (O26), the second writes, and ends the request if the write fails; the
third reads and ends it (O29). -/
theorem exchangeEndsInThreeTurns : Obligations.ExchangeEndsInThreeTurns := by
  intro s r q c cmd payload tmo ch t1 t2 t3 rest hm hturns rfl h2 h3 hq hp hch hfree
  obtain ⟨a, ha, haeffect, -⟩ := exists_step_of_free ⟨hm, hturns, hq⟩ hp hch hfree
  have haturn := haeffect.turnOf hm h2.symm
  have hacfg : a.config = s.config := haeffect.config_eq
  rw [← hacfg] at hch
  constructor
  · intro st hst
    obtain ⟨t, ht, hteffect, htlock⟩ := exists_step_of_writeFailed haturn rfl hch rfl hst
    have heffect := (haeffect.nextTurn h2.symm _).trans hteffect
    rw [h2, hacfg] at heffect
    rw [hacfg] at htlock
    exact ⟨a, t, ha, ht, heffect.record_eq h2, (htlock _).trans (if_pos rfl), heffect.hist_eq⟩
  · intro hw hfits
    obtain ⟨b, hb, hbeffect⟩ := exists_step_of_written haturn rfl hch hw
    have hbturn := hbeffect.turnOf haturn.1 (h2.trans h3.symm)
    have hbcfg : b.config = s.config := hbeffect.config_eq.trans hacfg
    rw [hacfg, ← hbcfg] at hch
    rw [← hbcfg] at hfits
    obtain ⟨t, ht, hteffect, htlock⟩ := readStepParsesAndReleases b t3 rest _ c tmo ch hbturn rfl hch hfits
    have heffect := (((haeffect.nextTurn h2.symm _).trans hbeffect).nextTurn (h2.trans h3.symm) _).trans hteffect
    rw [h2, h3, hbcfg] at heffect
    rw [hbcfg] at htlock
    exact ⟨a, b, t, ha, hb, ht, heffect.record_eq h3, (htlock _).trans (if_pos rfl), heffect.hist_eq⟩

/-- Settles O44: the request's own turn ends it, since no other turn changes its record; that holds of every state, with
the invariant or without. -/
theorem lockReleasedWhenRequestEnds : Obligations.LockReleasedWhenRequestEnds := by
  intro s t r k q q' _ h hq hheld hq' hidle
  have hchanged : q' ≠ q := by
    rintro rfl
    rw [hidle] at hheld
    cases hheld
  obtain ⟨-, ⟨-, rfl⟩ | ⟨tn, rest, hturns, ⟨-, rfl⟩ | ⟨q₁, hq₁, hmove⟩⟩⟩ := step_cases h
  · exact absurd (Option.some.inj (hq'.symm.trans hq)) hchanged
  · exact absurd (Option.some.inj (hq'.symm.trans hq)) hchanged
  · by_cases hr : r = tn.requester
    · subst hr
      cases hq.symm.trans hq₁
      exact lock_and_status_of_move hmove hq hheld hq' hidle
    · have hkept := (stepChangesOneRequesterOnly s t tn rest hturns h).2 r hr
      exact absurd (Option.some.inj (hq'.symm.trans (hkept.trans hq))) hchanged

end Sys2Proof.Machine
end

section
/-! PROOFS of the family 60_exceptions: the status codes, where the transport errors and the successes of a request come
from, and which states stop a step (O24, O31, O48). -/

namespace Sys2Proof.Machine

/-! ### The status codes (R181) -/

/-- The status table, a code's status standing at the place of its number (R181). -/
def statusTable : List Status :=
  [.ok, .payloadTooLong, .messageTooShort, .packageTooShort, .checksumError, .lengthMismatch, .emptyResponse,
    .transportTimeout, .transportIoError, .illegalOperation]

/-- A status is read back from its code. -/
theorem statusTable_code (st : Status) : statusTable[st.code.toNat]? = some st := by
  cases st <;> rfl

theorem code_injective {st st' : Status} (h : st.code = st'.code) : st = st' :=
  Option.some.inj ((statusTable_code st).symm.trans (h ▸ statusTable_code st'))

/-- No status has a reserved code: every code is the number of a row of the table. -/
theorem toNat_code_le (st : Status) : st.code.toNat ≤ 9 := by
  obtain ⟨hlt, -⟩ := List.getElem?_eq_some_iff.1 (statusTable_code st)
  exact Nat.le_of_lt_succ hlt

/-! ### The transport errors (R182, R188) -/

theorem isTransportError_iff (st : Status) :
    st.isTransportError = true ↔ st = .transportTimeout ∨ st = .transportIoError := by
  cases st <;> decide

theorem txFailure_eq_none_iff (w : TxOutcome) : txFailure w = none ↔ w = .ok := by
  cases w <;> decide

theorem isTransportError_of_txFailure {w : TxOutcome} {st : Status} (h : txFailure w = some st) :
    st.isTransportError = true := by
  cases w with
  | ok => cases h
  | timeout | ioError => cases h; rfl

/-! ### The answers that a read takes as a success (R144, R188) -/

/-- The answer is a package with the right checksum and, under `STRICT_LENGTH`, the right length field. -/
def RxAnswer.IsCheckedPackage (strict : Bool) (a : RxAnswer) : Prop :=
  ∃ (addr cmd hi lo c : Byte) (payload : Bytes),
    a = .bytes (addr :: cmd :: hi :: lo :: (payload ++ [c]))
      ∧ verify (addr :: cmd :: hi :: lo :: (payload ++ [c])) = true
      ∧ (strict = true → hi.toNat * 256 + lo.toNat = payload.length)

theorem not_isCheckedPackage_of_short (strict : Bool) {m : Bytes} (h : m.length < 5) :
    ¬ (RxAnswer.bytes m).IsCheckedPackage strict := by
  rintro ⟨addr, cmd, hi, lo, c, payload, heq, -⟩
  cases heq
  simp only [List.length_cons, List.length_append] at h
  omega

/-- The fields of an answer in the form of a package are its own, so the two checks are on them. -/
theorem isCheckedPackage_form_iff (strict : Bool) (addr cmd hi lo c : Byte) (payload : Bytes) :
    (RxAnswer.bytes (addr :: cmd :: hi :: lo :: (payload ++ [c]))).IsCheckedPackage strict ↔
      verify (addr :: cmd :: hi :: lo :: (payload ++ [c])) = true
        ∧ (strict = true → hi.toNat * 256 + lo.toNat = payload.length) := by
  constructor
  · rintro ⟨addr', cmd', hi', lo', c', payload', heq, hverify, hlength⟩
    simp only [RxAnswer.bytes.injEq, List.cons.injEq, List.append_singleton_inj] at heq
    obtain ⟨rfl, rfl, rfl, rfl, rfl, rfl⟩ := heq
    exact ⟨hverify, hlength⟩
  · exact fun ⟨hverify, hlength⟩ => ⟨addr, cmd, hi, lo, c, payload, rfl, hverify, hlength⟩

/-- Bytes that the transport delivers never give a transport error, and give `OK` exactly as a checked package. -/
theorem exists_status_rxResult_bytes (strict : Bool) (m : Bytes) :
    ∃ st, (rxResult strict (.bytes m)).status = some st ∧ st.isTransportError = false
      ∧ (st = .ok ↔ (RxAnswer.bytes m).IsCheckedPackage strict) := by
  by_cases hshort : m.length < 5
  · have hnot := not_isCheckedPackage_of_short strict hshort
    rcases m.length.eq_zero_or_pos with hnil | hpos
    · cases List.length_eq_zero_iff.1 hnil
      exact ⟨.emptyResponse, rfl, rfl, iff_of_false nofun hnot⟩
    · exact ⟨.packageTooShort, by rw [rxResult_of_short strict hpos hshort]; rfl, rfl, iff_of_false nofun hnot⟩
  · obtain ⟨addr, cmd, hi, lo, payload, c, rfl⟩ := exists_package_form (Nat.le_of_not_lt hshort)
    rw [rxResult_form, toNat_unbe16, isCheckedPackage_form_iff]
    split_ifs with hverify hlength
    · exact ⟨.checksumError, rfl, rfl, iff_of_false nofun fun ⟨h, _⟩ => Bool.false_ne_true (hverify.symm.trans h)⟩
    · exact ⟨.lengthMismatch, rfl, rfl, iff_of_false nofun fun ⟨_, h⟩ => hlength.2 (h hlength.1)⟩
    · exact ⟨.ok, rfl, rfl, iff_of_true rfl
        ⟨eq_true_of_ne_false hverify, fun hs => by_contra fun hne => hlength ⟨hs, hne⟩⟩⟩

/-- The status of a read's result is a transport error exactly for the transport's failures, and `OK` exactly for a
checked package. -/
theorem exists_status_rxResult_iff (strict : Bool) (a : RxAnswer) :
    ∃ st, (rxResult strict a).status = some st ∧ (st.isTransportError = true ↔ a = .timeout ∨ a = .ioError)
      ∧ (st = .ok ↔ a.IsCheckedPackage strict) := by
  cases a with
  | timeout | ioError => exact ⟨_, rfl, by simp [isTransportError_iff], by simp [RxAnswer.IsCheckedPackage]⟩
  | bytes m =>
    obtain ⟨st, hst, herror, hok⟩ := exists_status_rxResult_bytes strict m
    exact ⟨st, hst, by simp [herror], hok⟩

/-! ### A step of a state with the invariant (R11, R185) -/

/-- With the invariant and no refusal mark a step is taken: the turn's requester, if there is one, is in a legal phase. -/
theorem exists_next_of_inv {s : State} (hinv : s.Inv) (hm : s.refusalMark = none) : ∃ t, step s = .next t := by
  cases hturns : s.turns with
  | nil => exact ⟨s, step_of_no_turn hm hturns⟩
  | cons tn rest =>
    cases hq : s.requesters[tn.requester]? with
    | none => exact ⟨_, (step_of_turn hm hturns).trans (turnStep_of_no_requester (s := s.beginTurn tn rest) tn hq)⟩
    | some q => exact exists_next_of_turnOf hinv ⟨hm, hturns, hq⟩

/-! ### The obligations -/

/-- Settles O31: one case per answer of the transport, the delivered bytes by their form. -/
theorem transportErrorsComeFromTheTransport : Obligations.TransportErrorsComeFromTheTransport :=
  ⟨isTransportError_iff, exists_status_rxResult_iff, txFailure_eq_none_iff, fun _ _ => isTransportError_of_txFailure⟩

/-- Settles O48: under the mark the step is refused with the mark's reason, and without it the step is taken. -/
theorem reachableStepsNeverStop : Obligations.ReachableStepsNeverStop := by
  intro s hinv
  cases hm : s.refusalMark with
  | none =>
    obtain ⟨t, ht⟩ := exists_next_of_inv hinv hm
    rw [ht]
    exact ⟨nofun, nofun⟩
  | some reason =>
    rw [step_of_marked hm]
    refine ⟨nofun, fun x hx => ?_⟩
    cases hx
    exact ⟨reason, rfl, rfl⟩

/-- Settles O24: the ten rows are read off the table, which gives each status back from its code. -/
theorem statusCodesAreTheTable : Obligations.StatusCodesAreTheTable :=
  ⟨rfl, rfl, rfl, rfl, rfl, rfl, rfl, rfl, rfl, rfl, fun _ _ => code_injective, toNat_code_le⟩

end Sys2Proof.Machine
end

section
/-! PROOFS of the family 70_reset: the block after reset, the end of a run, and that no unmarked state is stuck
(O7, O50, O51). -/

namespace Sys2Proof.Machine

/-! ### Who holds a lock has a step (R142, R143, R214) -/

/-- By the invariant the holder of a lock is in `WR` or `RD`, and so has a step. -/
theorem hasStep_of_lock_held {s : State} {k h : Nat} (hinv : s.Inv) (hm : s.refusalMark = none)
    (hheld : s.lock k = .held h) : s.hasStep h = true := by
  obtain ⟨q, hq, hdomain⟩ := (hinv.lockIff k h).1 hheld
  obtain ⟨c, hc, -⟩ := Option.bind_eq_some_iff.1 hdomain
  exact hasStep_of_holding hm hq hc

theorem not_stuck_of_inv {s : State} (hinv : s.Inv) (hm : s.refusalMark = none) : ¬ s.Stuck := by
  rintro ⟨-, h, -, -, -, -, -, rt, -, -, -, hheld, hno⟩
  cases (hasStep_of_lock_held hinv hm hheld).symm.trans hno

/-- While a request is outstanding someone has a step: its own requester, unless that one waits for a held lock; then
the lock's holder. -/
theorem exists_hasStep_of_busy {s : State} {r : Nat} {q : Requester} (hinv : s.Inv) (hm : s.refusalMark = none)
    (hq : s.requesters[r]? = some q) (hbusy : q.phase ≠ .idle) : ∃ r', s.hasStep r' = true := by
  cases hp : q.phase with
  | idle => exact absurd hp hbusy
  | acq c cmd payload tmo =>
    have hlegal := hinv.phases q (List.mem_of_getElem? hq)
    rw [hp] at hlegal
    obtain ⟨rt, hr⟩ := exists_route hlegal.1
    cases hl : s.lock rt.domain with
    | free => exact ⟨r, (hasStep_of_acq hm hq hp hr).trans (decide_eq_true hl)⟩
    | held h => exact ⟨h, hasStep_of_lock_held hinv hm hl⟩
  | wr | rd => exact ⟨r, hasStep_of_holding hm hq (by rw [hp]; rfl)⟩

/-- By the invariant an idle requester holds no lock, so with every requester idle nobody does (R29). -/
theorem lock_eq_free_of_idle {s : State} (hinv : s.Inv) (hidle : ∀ q ∈ s.requesters, q.phase = .idle) (k : Nat) :
    s.lock k = .free := by
  cases hl : s.lock k with
  | free => rfl
  | held r =>
    obtain ⟨q, hq, hdomain⟩ := (hinv.lockIff k r).1 hl
    rw [hidle q (List.mem_of_getElem? hq)] at hdomain
    cases hdomain

/-! ### A requester after reset (R35) -/

theorem readField_unwritten (f : ResultField) : readField Result.unwritten f = none := by
  cases f <;> rfl

/-! ### The obligations -/

/-- Settles O50: by the invariant the holder of a lock is in `WR` or `RD` and has a step; so no waiter is stuck on it,
and a requester that waits for a free lock has a step itself. -/
theorem noUnmarkedStateIsStuck : Obligations.NoUnmarkedStateIsStuck :=
  fun _ hinv hm => ⟨not_stuck_of_inv hinv hm, fun _ _ => exists_hasStep_of_busy hinv hm⟩

/-- Settles O51: by the invariant a held lock has a holder that is not idle. -/
theorem idleRunIsOver : Obligations.IdleRunIsOver :=
  fun _ hinv hidle hfault hm => ⟨hidle, lock_eq_free_of_idle hinv hidle, hfault, hm⟩

/-- Settles O7: every requester of a launch is one after reset, and a turn finds nothing on its port to do. -/
theorem launchIsIdleAndWaits : Obligations.LaunchIsIdleAndWaits := by
  intro cfg n hallowed
  refine ⟨List.length_replicate, fun q hq => ?_, fun _ => rfl, rfl, refusalMark_launch_of_allowed hallowed n, rfl,
    step_launch hallowed n⟩
  cases eq_reset_of_mem_launch hq
  exact ⟨rfl, readField_unwritten⟩

end Sys2Proof.Machine
end
